-- ==== Sys2Proof/Word.lean ====
section
/-! DEFINITION. The widths of the hardware's registers and of its cycle word (00_scope.md R5, 10_state.md R10,
30_encoding.md R41). Every value is unsigned and bit 0 is the least significant bit (R8). -/

namespace Sys2Proof

/-- `TICK_W` = 8 bits: the type of `tick` and `last` (R5, R11, R12). -/
abbrev TickWord := BitVec 8

/-- `SUM_W` = 12 bits: the type of `sum` (R5, R14). -/
abbrev SumWord := BitVec 12

/-- 2 bits: the type of `count` (R15). -/
abbrev CountWord := BitVec 2

/-- `RAW_W` = 10 bits: the type of the port `sample_data[9:0]` (R5, R99). -/
abbrev RawWord := BitVec 10

/-- The 14-bit cycle word `W[13:0]` (R41). -/
abbrev CycleWord := BitVec 14

end Sys2Proof
end

