-- ==== Sys2Proof/Config.lean ====
section
/-! DEFINITION. The constants of a build (00_scope.md R5) as one plain record, the values this hardware takes for
them, and the one free value. A build is fixed for the machine: State carries it and no operation writes it
(log 1). -/

namespace Sys2Proof

/-- Which of the two devices is built (R2). -/
inductive Variant where
  | a
  | b
deriving DecidableEq, Repr

/-- `EDGE_SEL`: which transitions of the switch input raise an EDGE event (R5, R70). -/
inductive EdgeSel where
  | both
  | rise
  | fall
deriving DecidableEq, Repr

/-- An output line number (R33): line 0 in variant A, lines 0 to 2 in variant B. -/
inductive Line where
  | l0
  | l1
  | l2
deriving DecidableEq, Repr

/-- The Rotation Index: exactly three values, so that `idx = 3` cannot be written down (R17, U9). -/
inductive RotIndex where
  | i0
  | i1
  | i2
deriving DecidableEq, Repr

/-- A 3-entry constant table from step index to line: `LEAD` or `TRAIL` (R85). -/
structure LineTable where
  at0 : Line
  at1 : Line
  at2 : Line
deriving DecidableEq, Repr

/-- The named parameters of R5. The widths `TICK_W`, `RAW_W`, `SUM_W` and the number of steps and lines are in the
types; `TICK_PERIOD` is read by no rule. -/
structure Build where
  /-- `VARIANT` -/
  variant : Variant
  /-- `DEBOUNCE`, in ticks -/
  debounce : Nat
  /-- `WINDOW`, samples per averaging window -/
  window : Nat
  /-- `RAW_MAX`, the largest raw sample -/
  rawMax : Nat
  /-- `HIGH`, the upper threshold -/
  high : Nat
  /-- `LOW`, the lower threshold -/
  low : Nat
  /-- `LEAD` -/
  lead : LineTable
  /-- `TRAIL` -/
  trail : LineTable
  /-- `CLAMP_WRITEBACK` -/
  clampWriteback : Bool
  /-- `ACC_CLEAR_ON_OFF` -/
  accClearOnOff : Bool
  /-- `EDGE_SEL` -/
  edgeSel : EdgeSel
deriving DecidableEq, Repr

/-- This hardware as variant A: the values of R5's table. -/
def Build.hardwareA : Build where
  variant := .a
  debounce := 1
  window := 4
  rawMax := 1023
  high := 300
  low := 200
  lead := ⟨.l0, .l1, .l2⟩
  trail := ⟨.l2, .l0, .l1⟩
  clampWriteback := true
  accClearOnOff := false
  edgeSel := .both

/-- This hardware as variant B: the values of R5's table. -/
def Build.hardwareB : Build :=
  { Build.hardwareA with variant := .b, debounce := 2 }

/-- Free value (log 7): what `sum` holds after a sum of 4096 or more is stored in it, for the `n`-th such draw. The
spec states no result there, because by R16 no run reaches it. -/
opaque Config.freeSum (n : Nat) : SumWord

end Sys2Proof
end

