-- ==== Sys2Proof/Syntax.lean ====
section
/-! DEFINITION. The nine operations of spec/opcode_table.json (30_encoding.md R40, R43), one constructor per row. -/

namespace Sys2Proof

/-- An operation. The operand of the SAMPLE rows is the unsigned integer `raw` of R42; it is a natural number, so that
a number no cycle word can carry can be written down and is refused (R75, D21; log 12). -/
inductive Instr where
  /-- `RESET` (R95) -/
  | reset
  /-- `IDLE` (R96) -/
  | idle
  /-- `SAMPLE raw` (R75) -/
  | sample (raw : Nat)
  /-- `TICK` (R55) -/
  | tick
  /-- `TICK+SAMPLE raw` (R97) -/
  | tickSample (raw : Nat)
  /-- `EDGE` (R60) -/
  | edge
  /-- `EDGE+SAMPLE raw` (R97) -/
  | edgeSample (raw : Nat)
  /-- `EDGE+TICK` (R97) -/
  | edgeTick
  /-- `EDGE+TICK+SAMPLE raw` (R97) -/
  | edgeTickSample (raw : Nat)
deriving DecidableEq, Repr

end Sys2Proof
end

