-- ==== Sys2Proof/WellFormed.lean ====
section
/-! DEFINITION. Which operations a cycle word can carry (30_encoding.md R42) and which a variant has (R45). -/

namespace Sys2Proof

/-- The raw operand of an operation with a sample event, `none` for the others (R42). -/
def Instr.rawOperand : Instr → Option Nat
  | .reset => none
  | .idle => none
  | .sample raw => some raw
  | .tick => none
  | .tickSample raw => some raw
  | .edge => none
  | .edgeSample raw => some raw
  | .edgeTick => none
  | .edgeTickSample raw => some raw

/-- A cycle word can carry the operation: its raw operand fits the ten bits `W[9:0]` (R42). -/
def Instr.wellFormed (i : Instr) : Bool :=
  match i.rawOperand with
  | none => true
  | some raw => decide (raw < 1024)

/-- The variant has the operation: variant B has no SAMPLE, alone or in a compound (R45). -/
def Instr.existsIn (v : Variant) (i : Instr) : Bool :=
  match v, i.rawOperand with
  | .b, some _ => false
  | .b, none => true
  | .a, _ => true

end Sys2Proof
end

