-- ==== Sys2Proof/Decode.lean ====
section
/-! DEFINITION. The cycle word (30_encoding.md R41 to R44): its fields, the decoder, the encoder, and the opcode map
of R43 as rows of mask and match. -/

namespace Sys2Proof

/-- `W[13]` -/
def fieldRst (w : CycleWord) : Bool := w.getLsbD 13

/-- `W[12]` -/
def fieldEdge (w : CycleWord) : Bool := w.getLsbD 12

/-- `W[11]` -/
def fieldTick (w : CycleWord) : Bool := w.getLsbD 11

/-- `W[10]` -/
def fieldSample (w : CycleWord) : Bool := w.getLsbD 10

/-- `zext(W[9:0])`, not sign-extended, scaled or shifted (R42). -/
def fieldData (w : CycleWord) : Nat := (w.extractLsb' 0 10).toNat

/-- The operation of a cycle word: total, and independent of the state (R43, R46). `rst = 1` overrides the other
bits, and `data` is read only when `sample = 1` (R44). -/
def decode (w : CycleWord) : Instr :=
  match fieldRst w, fieldEdge w, fieldTick w, fieldSample w with
  | true, _, _, _ => .reset
  | false, false, false, false => .idle
  | false, false, false, true => .sample (fieldData w)
  | false, false, true, false => .tick
  | false, false, true, true => .tickSample (fieldData w)
  | false, true, false, false => .edge
  | false, true, false, true => .edgeSample (fieldData w)
  | false, true, true, false => .edgeTick
  | false, true, true, true => .edgeTickSample (fieldData w)

/-- Why a number is not decoded. -/
inductive DecodeReject where
  /-- Bit 14 or a higher bit is set: "Words above 0x3FFF do not exist" (95_test_vectors.md part 6; log 11). -/
  | notACycleWord
deriving DecidableEq, Repr

/-- The decoder on any number, such as the value of a pair of bytes: total, and what is not a cycle word is rejected
by name. -/
def decodeNumber (n : Nat) : Except DecodeReject Instr :=
  if n < 2 ^ 14 then .ok (decode (BitVec.ofNat 14 n)) else .error .notACycleWord

/-- What the decoder reads from `nbits` bits whose value is `w`; bits above them are 0 (log 11). -/
def decodeTableWord (nbits w : Nat) : Option Instr :=
  match decodeNumber (w % 2 ^ nbits) with
  | .ok i => some i
  | .error _ => none

/-- A cycle word from its fields, `rst` most significant (R41). -/
def packWord (rst edge tick sample : Bool) (data : RawWord) : CycleWord :=
  BitVec.ofBool rst ++ BitVec.ofBool edge ++ BitVec.ofBool tick ++ BitVec.ofBool sample ++ data

/-- The canonical cycle word: every ignored bit 0 (R43, R44). -/
def encode : Instr → CycleWord
  | .reset => packWord true false false false 0
  | .idle => packWord false false false false 0
  | .sample raw => packWord false false false true (BitVec.ofNat 10 raw)
  | .tick => packWord false false true false 0
  | .tickSample raw => packWord false false true true (BitVec.ofNat 10 raw)
  | .edge => packWord false true false false 0
  | .edgeSample raw => packWord false true false true (BitVec.ofNat 10 raw)
  | .edgeTick => packWord false true true false 0
  | .edgeTickSample raw => packWord false true true true (BitVec.ofNat 10 raw)

/-- One row of the opcode map: a word matches when it agrees with `value` under `mask` (R43). -/
structure OpcodeRow where
  mnemonic : String
  mask : CycleWord
  value : CycleWord
deriving DecidableEq, Repr

/-- The nine rows of R43, in its order. -/
def opcodeRows : List OpcodeRow :=
  [⟨"RESET", 0x2000#14, 0x2000#14⟩,
   ⟨"IDLE", 0x3C00#14, 0x0000#14⟩,
   ⟨"SAMPLE", 0x3C00#14, 0x0400#14⟩,
   ⟨"TICK", 0x3C00#14, 0x0800#14⟩,
   ⟨"TICK+SAMPLE", 0x3C00#14, 0x0C00#14⟩,
   ⟨"EDGE", 0x3C00#14, 0x1000#14⟩,
   ⟨"EDGE+SAMPLE", 0x3C00#14, 0x1400#14⟩,
   ⟨"EDGE+TICK", 0x3C00#14, 0x1800#14⟩,
   ⟨"EDGE+TICK+SAMPLE", 0x3C00#14, 0x1C00#14⟩]

/-- A word matches a row. -/
def OpcodeRow.covers (r : OpcodeRow) (w : CycleWord) : Bool := w &&& r.mask == r.value

/-- The operation's name in the opcode map (R43, R48). -/
def mnemonicOf : Instr → String
  | .reset => "RESET"
  | .idle => "IDLE"
  | .sample _ => "SAMPLE"
  | .tick => "TICK"
  | .tickSample _ => "TICK+SAMPLE"
  | .edge => "EDGE"
  | .edgeSample _ => "EDGE+SAMPLE"
  | .edgeTick => "EDGE+TICK"
  | .edgeTickSample _ => "EDGE+TICK+SAMPLE"

end Sys2Proof
end

