-- ==== Sys2Proof/Machine/State.lean ====
section
/-! DEFINITION. The state of the machine as plain data: the registers of 10_state.md R10 and nothing else of the
spec's, beside them the model's own fields `build`, `inputs` and `draws` (log 1, 2, 7); its reset value; the reasons a
step can stop. -/

namespace Sys2Proof.Machine

/-- The levels of the output lines `out[0]`, `out[1]`, `out[2]`; `true` is 1 = high = lit (R18). -/
structure Lines where
  l0 : Bool
  l1 : Bool
  l2 : Bool
deriving DecidableEq, Repr

/-- The input pins as sampled at one rising edge of `clk` (44_system_ops.md R99). -/
structure Pins where
  rst : Bool
  tickStb : Bool
  sw : Bool
  sampleStb : Bool
  sampleData : RawWord
deriving DecidableEq, Repr

structure State where
  /-- The constants of this build (R5); written by no operation. The model's own field (log 1). -/
  build : Build
  /-- The Tick Counter (R11). -/
  tick : TickWord
  /-- The Last-Toggle Tick (R12). -/
  last : TickWord
  /-- The Power State, `true` = on (R13). -/
  power : Bool
  /-- The running sum of the current window, variant A (R14). -/
  sum : SumWord
  /-- The sample count of the current window, variant A (R15). -/
  count : CountWord
  /-- The Rotation Index, variant B (R17). -/
  idx : RotIndex
  /-- The output line levels (R18). -/
  out : Lines
  /-- The edge detector's bit: `sw` in the previous clock cycle (R24). -/
  swPrev : Bool
  /-- What the environment will present on the pins, next cycle first. The model's own field (log 2). -/
  inputs : List Pins
  /-- How many free values have been drawn. The model's own field (log 7). -/
  draws : Nat
deriving DecidableEq, Repr

/-- The machine has no fault: "The hardware raises no exception, fault or trap of any kind" (60_exceptions.md R110;
log 4). No constructor, so nobody raises one. -/
inductive Fault where
deriving DecidableEq, Repr

/-- Why the model gives an operation no next state. -/
inductive Refusal where
  /-- An instruction without a meaning yet. Raised by exec's arms only; safe. No arm raises it. -/
  | notModelled (mnemonic : String)
  /-- A word with a sample event given to variant B, which has no sample port. Raised by the four SAMPLE rows. Safe:
  no pin-level input can produce such a word (R45, D10, U5). -/
  | noSamplePort
  /-- A raw operand above `RAW_MAX`. Raised by the four SAMPLE rows in variant A. Safe: the sampling hardware promises
  the range and nothing is said outside it (R75, D21, U8). -/
  | rawOutOfRange
  /-- A parameter set that breaks the constraints of R5. Raised by every operation. Safe: no such hardware is
  specified (U10). -/
  | invalidBuild
deriving DecidableEq, Repr

/-- The state after RESET of a given build, with nothing on the pins: every register 0, off, low (R10, R25, R125). -/
def State.resetOf (b : Build) : State where
  build := b
  tick := 0
  last := 0
  power := false
  sum := 0
  count := 0
  idx := .i0
  out := ⟨false, false, false⟩
  swPrev := false
  inputs := []
  draws := 0

/-- The machine right after reset. The build is this hardware as variant A, the one in which all nine operations
exist: DESIGN CHOICE (log 1). -/
def State.reset : State := State.resetOf Build.hardwareA

/-- What one operation answers. -/
abbrev Result := Host.Outcome State Fault Refusal

end Sys2Proof.Machine
end

