-- ==== Sys2Proof/Machine/Flags.lean ====
section
/-! DEFINITION. The one flag of the hardware, `power` (10_state.md R13): no carry, zero or overflow flag exists. -/

namespace Sys2Proof.Machine

/-- `NOT power`: what an accepted EDGE writes (41_debounced_toggle.md R65). -/
def flippedPower (s : State) : Bool := !s.power

/-- The test `now < last` of the clamp, on unsigned 8-bit values (R62). It records nothing. -/
def clampApplies (s : State) : Bool := decide (s.tick.toNat < s.last.toNat)

/-- `lst`: `last` after the clamp's local assignment (R62). -/
def clampedLast (s : State) : TickWord := if clampApplies s then s.tick else s.last

/-- `elapsed = now - lst`, exact and never negative (R63). -/
def elapsedTicks (s : State) : Nat := s.tick.toNat - (clampedLast s).toNat

/-- The event is accepted: not `elapsed < DEBOUNCE` (R64, R65). -/
def edgeAccepted (s : State) : Bool := decide (s.build.debounce ≤ elapsedTicks s)

end Sys2Proof.Machine
end

