-- ==== Sys2Proof/Machine/Operands.lean ====
section
/-! DEFINITION. The operand of the SAMPLE rows, the events an operation carries, line numbers and the rotation tables,
and which parameter sets are builds at all. -/

namespace Sys2Proof.Machine

/-- The raw operand is in `0..RAW_MAX` (42_hysteresis_driver.md R75). -/
def rawInRange (b : Build) (raw : Nat) : Bool := decide (raw ≤ b.rawMax)

/-- The operation carries an EDGE event (30_encoding.md R47). -/
def carriesEdge : Instr → Bool
  | .reset => false
  | .idle => false
  | .sample _ => false
  | .tick => false
  | .tickSample _ => false
  | .edge => true
  | .edgeSample _ => true
  | .edgeTick => true
  | .edgeTickSample _ => true

/-- The operation carries a TICK event (R47). -/
def carriesTick : Instr → Bool
  | .reset => false
  | .idle => false
  | .sample _ => false
  | .tick => true
  | .tickSample _ => true
  | .edge => false
  | .edgeSample _ => false
  | .edgeTick => true
  | .edgeTickSample _ => true

/-- The entry of a rotation table at an index (43_sequence_rotator.md R85). -/
def tableAt (t : LineTable) : RotIndex → Line
  | .i0 => t.at0
  | .i1 => t.at1
  | .i2 => t.at2

/-- `(idx + 1) mod 3` (R88). -/
def nextIndex : RotIndex → RotIndex
  | .i0 => .i1
  | .i1 => .i2
  | .i2 => .i0

/-- The level of a line. -/
def lineLevel (o : Lines) : Line → Bool
  | .l0 => o.l0
  | .l1 => o.l1
  | .l2 => o.l2

/-- One line set to a level, the others kept. -/
def writeLine (o : Lines) (l : Line) (level : Bool) : Lines :=
  match l with
  | .l0 => { o with l0 := level }
  | .l1 => { o with l1 := level }
  | .l2 => { o with l2 := level }

/-- The output lines a variant has, `NLINES` of them (10_state.md R18, 20_memory.md R33). -/
def linesOf : Variant → List Line
  | .a => [.l0]
  | .b => [.l0, .l1, .l2]

/-- A table is a permutation of `{0, 1, 2}` (R86). -/
def isPermutation (t : LineTable) : Bool :=
  decide (t.at0 ≠ t.at1) && decide (t.at0 ≠ t.at2) && decide (t.at1 ≠ t.at2)

/-- `TRAIL[i] ≠ LEAD[i]` for every `i` (R86, U10). -/
def tablesDisjoint (lead trail : LineTable) : Bool :=
  decide (trail.at0 ≠ lead.at0) && decide (trail.at1 ≠ lead.at1) && decide (trail.at2 ≠ lead.at2)

/-- The constraints of R5 that every parameter choice must meet (U10), and the two that the fixed widths add: a
window's count fits `count` and a raw sample fits `sample_data` (log 6). -/
def buildValid (b : Build) : Bool :=
  decide (1 ≤ b.debounce) && decide (1 ≤ b.window) && decide (b.window ≤ 4) && decide (b.rawMax ≤ 1023)
    && decide (b.window * b.rawMax < 4096) && decide (b.low ≤ b.high)
    && isPermutation b.lead && isPermutation b.trail && tablesDisjoint b.lead b.trail

end Sys2Proof.Machine
end

