-- ==== Sys2Proof/Machine/Ops.lean ====
section
/-! DEFINITION. The named operations over the registers: the write of each register, the output primitive, and the
tests that stand before an operation. There is no memory (20_memory.md R30), no exception to take and none to return
from (60_exceptions.md R110, R117, R118), so none of these has an operation here. -/

namespace Sys2Proof.Machine

/-- `tick <- v` -/
def setTick (s : State) (v : TickWord) : State := { s with tick := v }

/-- `last <- v` -/
def setLast (s : State) (v : TickWord) : State := { s with last := v }

/-- `power <- v` -/
def setPower (s : State) (v : Bool) : State := { s with power := v }

/-- `sum <- v; count <- c` -/
def setAccumulator (s : State) (v : SumWord) (c : CountWord) : State := { s with sum := v, count := c }

/-- `idx <- v` -/
def setIdx (s : State) (v : RotIndex) : State := { s with idx := v }

/-- `out[l] <- level`, the source's `set_output(l, level)`: the only output primitive (00_scope.md R8). -/
def setOutput (s : State) (l : Line) (level : Bool) : State := { s with out := writeLine s.out l level }

/-- `sw_prev <- v` -/
def setSwPrev (s : State) (v : Bool) : State := { s with swPrev := v }

/-- The pins of the coming cycles become `ps`. -/
def setInputs (s : State) (ps : List Pins) : State := { s with inputs := ps }

/-- One free value has been drawn (log 7). -/
def countDraw (s : State) : State := { s with draws := s.draws + 1 }

/-- `out[l] <- 0` for each line of a list. -/
def linesLow (s : State) (ls : List Line) : State := ls.foldl (fun t l => setOutput t l false) s

/-- `AllOutputsLow()`: `out[l] <- 0` for every line the variant has (R8, 41_debounced_toggle.md R65). -/
def allOutputsLow (s : State) : State := linesLow s (linesOf s.build.variant)

/-- `sum <- total; count <- c` for an exact natural `total`. A total that does not fit 12 bits occurs only in states
no run reaches (10_state.md R16), and the spec states no result for it: a free value is stored (log 7). -/
def storeAccumulator (s : State) (total c : Nat) : State :=
  if total < 4096 then setAccumulator s (BitVec.ofNat 12 total) (BitVec.ofNat 2 c)
  else countDraw (setAccumulator s (Config.freeSum s.draws) (BitVec.ofNat 2 c))

/-- The levels on the port `out`, line 0 first: all that the outside sees (00_scope.md R7, 44_system_ops.md R99). -/
def outPort (s : State) : List Bool := (linesOf s.build.variant).map (lineLevel s.out)

/-- An operation that every variant has: it is applied as a whole (20_memory.md R34), unless the parameter set is no
build (U10). -/
def onBuild (s : State) (apply : State → State) : Result :=
  if buildValid s.build then .next (apply s) else .refused .invalidBuild

/-- An operation with a sample event: applied as a whole in variant A when its operand is in range, refused as a whole
otherwise (30_encoding.md R45, 42_hysteresis_driver.md R75; log 17). -/
def onSamplePort (s : State) (raw : Nat) (apply : State → State) : Result :=
  if buildValid s.build then
    match s.build.variant with
    | .b => .refused .noSamplePort
    | .a => if rawInRange s.build raw then .next (apply s) else .refused .rawOutOfRange
  else .refused .invalidBuild

end Sys2Proof.Machine
end

