-- ==== Sys2Proof/Machine/DebouncedToggle.lean ====
section
/-! DEFINITION. The Debounced Toggle, the Power State and the EDGE operation (41_debounced_toggle.md). -/

namespace Sys2Proof.Machine

/-- The clamp's write of the register, made when `CLAMP_WRITEBACK = 1` (R62); with 0 only the local copy changes
(R72). -/
def clampStep (s : State) : State :=
  if clampApplies s && s.build.clampWriteback then setLast s s.tick else s

/-- What an acceptance does when it turns the power off: every line low (R65) and, when `ACC_CLEAR_ON_OFF = 1`, the
accumulator cleared (42_hysteresis_driver.md R81). -/
def powerOffEffects (s : State) : State :=
  let dark := allOutputsLow s
  if s.build.accClearOnOff then setAccumulator dark 0 0 else dark

/-- Step 4, the acceptance (R65): flip `power`, force the lines low if it is now off, `last <- now`. -/
def acceptEdge (s : State) : State :=
  let p := flippedPower s
  let flipped := setPower s p
  setLast (if p then flipped else powerOffEffects flipped) s.tick

/-- The EDGE event (R60): clamp, then accept or discard on the elapsed count from before any write. -/
def edgeEvent (s : State) : State :=
  if edgeAccepted s then acceptEdge (clampStep s) else clampStep s

/-- `EDGE` (R60). -/
def execEdge (s : State) : Result := onBuild s edgeEvent

end Sys2Proof.Machine
end

