-- ==== Sys2Proof/Machine/HysteresisDriver.lean ====
section
/-! DEFINITION. Actuation Policy A, the Hysteresis Threshold Driver, and the SAMPLE operation
(42_hysteresis_driver.md). -/

namespace Sys2Proof.Machine

/-- Step 3, the decision on a window's average: both comparisons strict (R79). -/
def decideOutput (s : State) (avg : Nat) : State :=
  if s.build.high < avg then setOutput s .l0 true
  else if avg < s.build.low then setOutput s .l0 false
  else s

/-- The SAMPLE event (R75): nothing while off (R76); else accumulate exactly (R77) and, when the window is full,
decide on the truncated average and start a new window (R78, R79). -/
def sampleEvent (raw : Nat) (s : State) : State :=
  if s.power then
    let total := s.sum.toNat + raw
    let c := s.count.toNat + 1
    if c < s.build.window then storeAccumulator s total c
    else setAccumulator (decideOutput s (total / c)) 0 0
  else s

/-- `SAMPLE raw` (R75). -/
def execSample (raw : Nat) (s : State) : Result := onSamplePort s raw (sampleEvent raw)

end Sys2Proof.Machine
end

