-- ==== Sys2Proof/Machine/SequenceRotator.lean ====
section
/-! DEFINITION. Actuation Policy B, the Sequence Rotator: the rotation part of TICK (43_sequence_rotator.md). -/

namespace Sys2Proof.Machine

/-- `RotatorStep()` (R87): while on, the trailing line goes low, the leading line high, both looked up with the index
from before the step, and the index advances; while off nothing is written. -/
def rotatorStep (s : State) : State :=
  if s.power then
    setIdx (setOutput (setOutput s (tableAt s.build.trail s.idx) false) (tableAt s.build.lead s.idx) true)
      (nextIndex s.idx)
  else s

end Sys2Proof.Machine
end

