-- ==== Sys2Proof/Machine/TickSource.lean ====
section
/-! DEFINITION. The Tick Source and the TICK operation (40_tick_source.md). -/

namespace Sys2Proof.Machine

/-- The TICK event (R55): `tick` counts modulo 256 (R56), gated by nothing (R57); in variant B the rotator steps. -/
def tickEvent (s : State) : State :=
  let counted := setTick s (s.tick + 1)
  match s.build.variant with
  | .a => counted
  | .b => rotatorStep counted

/-- `TICK` (R55). -/
def execTick (s : State) : Result := onBuild s tickEvent

end Sys2Proof.Machine
end

