-- ==== Sys2Proof/Machine/SystemOps.lean ====
section
/-! DEFINITION. RESET, IDLE and the same-cycle compounds (44_system_ops.md R95 to R97). -/

namespace Sys2Proof.Machine

/-- RESET's effect (R95): every register to its reset value, whatever it held. The build, the pins to come and the
count of free values are not registers and stay (70_reset_and_hazards.md R126). -/
def resetRegisters (s : State) : State :=
  { s with
    tick := 0
    last := 0
    power := false
    sum := 0
    count := 0
    idx := .i0
    out := ⟨false, false, false⟩
    swPrev := false }

/-- `RESET` (R95). -/
def execReset (s : State) : Result := onBuild s resetRegisters

/-- `IDLE` (R96): nothing is written. -/
def execIdle (s : State) : Result := onBuild s (fun t => t)

/-- `Cycle(edge, tick, sample, data)` (R97): EDGE, then TICK, then SAMPLE, each on the state the one before left. -/
def cycle (edge tick : Bool) (raw : Option Nat) (s : State) : State :=
  let s1 := if edge then edgeEvent s else s
  let s2 := if tick then tickEvent s1 else s1
  match raw with
  | some d => sampleEvent d s2
  | none => s2

/-- `TICK+SAMPLE raw` (R97). -/
def execTickSample (raw : Nat) (s : State) : Result := onSamplePort s raw (cycle false true (some raw))

/-- `EDGE+SAMPLE raw` (R97). -/
def execEdgeSample (raw : Nat) (s : State) : Result := onSamplePort s raw (cycle true false (some raw))

/-- `EDGE+TICK` (R97). -/
def execEdgeTick (s : State) : Result := onBuild s (cycle true true none)

/-- `EDGE+TICK+SAMPLE raw` (R97). -/
def execEdgeTickSample (raw : Nat) (s : State) : Result := onSamplePort s raw (cycle true true (some raw))

end Sys2Proof.Machine
end

