-- ==== Sys2Proof/Machine/Dispatch.lean ====
section
/-! DEFINITION. One arm per row of spec/opcode_table.json. -/

namespace Sys2Proof.Machine

def exec (i : Instr) (s : State) : Host.Outcome State Fault Refusal :=
  match i with
  | .reset => Sys2Proof.Machine.execReset s
  | .idle => Sys2Proof.Machine.execIdle s
  | .sample raw => Sys2Proof.Machine.execSample raw s
  | .tick => Sys2Proof.Machine.execTick s
  | .tickSample raw => Sys2Proof.Machine.execTickSample raw s
  | .edge => Sys2Proof.Machine.execEdge s
  | .edgeSample raw => Sys2Proof.Machine.execEdgeSample raw s
  | .edgeTick => Sys2Proof.Machine.execEdgeTick s
  | .edgeTickSample raw => Sys2Proof.Machine.execEdgeTickSample raw s

end Sys2Proof.Machine
end

