-- ==== Sys2Proof/Machine/PinLevel.lean ====
section
/-! DEFINITION. The pin level: the edge detector and the cycle word of one clock cycle (41_debounced_toggle.md R70,
44_system_ops.md R98, R99). -/

namespace Sys2Proof.Machine

/-- The edge detector (R70). -/
def edgeDetect (sel : EdgeSel) (sw swPrev : Bool) : Bool :=
  match sel with
  | .both => sw ^^ swPrev
  | .rise => sw && !swPrev
  | .fall => !sw && swPrev

/-- A cycle without any event: nothing strobed and the switch level held. It stands for the cycles after the listed
ones: "The hardware does nothing on its own" (00_scope.md R6; log 2). -/
def quietPins (s : State) : Pins :=
  { rst := false, tickStb := false, sw := s.swPrev, sampleStb := false, sampleData := 0 }

/-- The pins sampled at the next rising edge of `clk`. -/
def currentPins (s : State) : Pins :=
  match s.inputs with
  | [] => quietPins s
  | p :: _ => p

/-- The cycle word that given pins and the stored switch level make (30_encoding.md R41, R98). -/
def wordOfPins (sel : EdgeSel) (swPrev : Bool) (p : Pins) : CycleWord :=
  packWord p.rst (edgeDetect sel p.sw swPrev) p.tickStb p.sampleStb p.sampleData

/-- The cycle word of the next clock cycle: what a fetch is on this hardware. -/
def fetchWord (s : State) : CycleWord := wordOfPins s.build.edgeSel s.swPrev (currentPins s)

/-- The part of a cycle around its operation: `sw_prev <- sw` (R70), and the pins have been taken. In a cycle with
`rst = 1` RESET clears `sw_prev` after it. -/
def takePins (s : State) : State := setInputs (setSwPrev s (currentPins s).sw) s.inputs.tail

/-- `sw_prev` after a cycle with pins `p` (R70). -/
def swPrevAfter (p : Pins) : Bool := if p.rst then false else p.sw

/-- The cycle words of a list of pin values, the first cycle starting with `swPrev` (R98). -/
def wordsOfPins (sel : EdgeSel) (swPrev : Bool) : List Pins → List CycleWord
  | [] => []
  | p :: ps => wordOfPins sel swPrev p :: wordsOfPins sel (swPrevAfter p) ps

/-- A stored switch level from which the edge bit `e` can be raised in the next cycle: any for `both` and for `e = 0`,
0 for a rising and 1 for a falling transition. -/
def swPrevFor (sel : EdgeSel) (swPrev e : Bool) : Bool :=
  match sel, e with
  | .both, _ => swPrev
  | .rise, true => false
  | .fall, true => true
  | .rise, false => swPrev
  | .fall, false => swPrev

/-- Pins that, with that stored level, make the cycle word `w`. -/
def pinsForWord (swPrev : Bool) (w : CycleWord) : Pins :=
  { rst := fieldRst w
    tickStb := fieldTick w
    sw := swPrev ^^ fieldEdge w
    sampleStb := fieldSample w
    sampleData := BitVec.ofNat 10 (fieldData w) }

/-- The next cycle's pins replaced, so that its cycle word is `w` (log 13). -/
def presentWord (s : State) (w : CycleWord) : State :=
  let level := swPrevFor s.build.edgeSel s.swPrev (fieldEdge w)
  setInputs (setSwPrev s level) (pinsForWord level w :: s.inputs.tail)

end Sys2Proof.Machine
end

