-- ==== Sys2Proof/Machine/Step.lean ====
section
/-! DEFINITION. One clock cycle (44_system_ops.md R98): take the pins, form the cycle word, apply its operation. -/

namespace Sys2Proof.Machine

/-- One rising edge of `clk` (R98). -/
def step (s : State) : Host.Outcome State Fault Refusal :=
  exec (decode (fetchWord s)) (takePins s)

/-- `s` with the environment presenting the cycle word `w` in the next cycle (log 13). A cycle word has 14 bits. -/
def State.withFetchWord (s : State) (nbits w : Nat) : State :=
  presentWord s (BitVec.ofNat 14 (w % 2 ^ nbits))

end Sys2Proof.Machine
end

