-- ==== Sys2Proof/Machine/EventLevel.lean ====
section
/-! DEFINITION. The event level (30_encoding.md R47, 44_system_ops.md R103): an operation as a list of elementary
operations, and a run as a list of operations given by the environment. -/

namespace Sys2Proof.Machine

/-- The list of elementary operations a cycle word's operation stands for, in the order EDGE, TICK, SAMPLE (R47). -/
def expand : Instr → List Instr
  | .reset => [.reset]
  | .idle => []
  | .sample raw => [.sample raw]
  | .tick => [.tick]
  | .tickSample raw => [.tick, .sample raw]
  | .edge => [.edge]
  | .edgeSample raw => [.edge, .sample raw]
  | .edgeTick => [.edge, .tick]
  | .edgeTickSample raw => [.edge, .tick, .sample raw]

/-- The operations of a list applied one after another, stopping at the first that is not given a next state (R37). -/
def runOps : List Instr → State → Result
  | [], s => .next s
  | i :: is, s =>
    match exec i s with
    | .next t => runOps is t
    | .fault r => .fault r
    | .refused r => .refused r

/-- How many TICK events a list of operations carries. -/
def tickTotal : List Instr → Nat
  | [] => 0
  | i :: is => (if carriesTick i then 1 else 0) + tickTotal is

/-- What an operation leaves, its pin-level part (`sw_prev` and the pins to come) put aside (R103). -/
def withoutPins (s : State) : State := setInputs (setSwPrev s false) []

/-- An outcome with the pin-level part of its state put aside (R103). -/
def outcomeWithoutPins : Result → Result
  | .next s => .next (withoutPins s)
  | .fault r => .fault r
  | .refused r => .refused r

end Sys2Proof.Machine
end

