-- ==== Sys2Proof/Safety.lean ====
section
/-! DEFINITION. What holds of every state a run from reset reaches, in the terms statements use. -/

namespace Sys2Proof.Machine

/-- R16: the accumulator is that of a window not yet full. -/
def State.AccumulatorInRange (s : State) : Prop :=
  s.count.toNat + 1 ≤ s.build.window ∧ s.sum.toNat ≤ s.count.toNat * s.build.rawMax

/-- R19: while the power is off every line the variant has is low. -/
def State.DarkWhenOff (s : State) : Prop :=
  s.power = false → ∀ level ∈ outPort s, level = false

/-- R26: what the variant does not have holds its reset value. -/
def State.AbsentAtReset (s : State) : Prop :=
  match s.build.variant with
  | .a => s.idx = .i0 ∧ s.out.l1 = false ∧ s.out.l2 = false
  | .b => s.sum = 0 ∧ s.count = 0

/-- What every operation keeps: a specified build (U10) and the invariants R16, R19 and R26. -/
structure State.Inv (s : State) : Prop where
  build : buildValid s.build = true
  accumulator : s.AccumulatorInRange
  dark : s.DarkWhenOff
  absent : s.AbsentAtReset

/-- Exactly one of the three lines is high. -/
def oneLineHigh (o : Lines) (l : Line) : Prop :=
  ∀ k, lineLevel o k = decide (k = l)

end Sys2Proof.Machine
end

