-- ==== Sys2Proof/Certificates/Slice0/Obligations.lean ====
section
/-! DEFINITION. The statements for the provers, taken from the numbered rules of spec/. Every result is an equation of
whole states, so it is its own frame: what the equation does not write is unchanged. Memory does not exist (R30). -/

open Sys2Proof Sys2Proof.Machine

/-! ## Reset and idle -/

/-- R95: RESET returns every register to its reset value whatever the state, and every word with `rst = 1` is RESET. -/
def Obligations.ResetReturnsEveryRegisterToItsResetValue : Prop :=
  (∀ s : State, buildValid s.build = true →
    exec .reset s = .next
      { build := s.build, tick := 0, last := 0, power := false, sum := 0, count := 0, idx := .i0,
        out := ⟨false, false, false⟩, swPrev := false, inputs := s.inputs, draws := s.draws }) ∧
  (∀ w : CycleWord, w.getLsbD 13 = true → decode w = .reset) ∧ encode .reset = 0x2000#14

/-- R10, R25: State.reset has every register of the spec at its reset value. That its build is variant A and its list of
inputs empty is the model's choice (log 1, 2); nothing is said of the draw count (log 7). -/
def Obligations.ResetStateHoldsTheResetValues : Prop :=
  State.reset =
    { build := Build.hardwareA, tick := 0, last := 0, power := false, sum := 0, count := 0, idx := .i0,
      out := ⟨false, false, false⟩, swPrev := false, inputs := [], draws := State.reset.draws } ∧
  ∀ s : State, buildValid s.build = true →
    exec .reset s = .next { State.resetOf s.build with inputs := s.inputs, draws := s.draws }

/-- R96: IDLE writes nothing; it is the operation of exactly the words without an event; at the pin level it leaves
`sw_prev` as it is where both transitions are events. -/
def Obligations.IdleWritesNothing : Prop :=
  (∀ s : State, buildValid s.build = true → exec .idle s = .next s) ∧
  (∀ w : CycleWord, decode w = .idle ↔
    w.getLsbD 13 = false ∧ w.getLsbD 12 = false ∧ w.getLsbD 11 = false ∧ w.getLsbD 10 = false) ∧
  encode .idle = 0#14 ∧
  ∀ s : State, buildValid s.build = true → s.build.edgeSel = .both → decode (fetchWord s) = .idle →
    step s = .next { s with inputs := s.inputs.tail }

/-! ## TICK -/

/-- R55, R87: TICK adds one to `tick` modulo 256; in variant A and while off it does nothing else; in variant B while on
it switches the trailing line off, the leading line on, and advances the index. -/
def Obligations.TickCountsAndRotates : Prop :=
  encode .tick = 0x0800#14 ∧
  ∀ s : State, buildValid s.build = true →
    ((s.build.variant = .a ∨ s.power = false) →
      exec .tick s = .next { s with tick := BitVec.ofNat 8 ((s.tick.toNat + 1) % 256) }) ∧
    (s.build.variant = .b → s.power = true →
      ∃ o : Lines,
        exec .tick s = .next
          { s with tick := BitVec.ofNat 8 ((s.tick.toNat + 1) % 256), idx := nextIndex s.idx, out := o } ∧
        ∀ k, lineLevel o k =
          if k = tableAt s.build.lead s.idx then true
          else if k = tableAt s.build.trail s.idx then false
          else lineLevel s.out k)

/-- R56: after `n` TICKs the counter holds `(t + n) mod 256`, and no other register records where it stood: TICK from
another counter value differs in `tick` alone. -/
def Obligations.TickCounterIsModulo256 : Prop :=
  (∀ (n : Nat) (s : State), buildValid s.build = true →
    ∃ t, runOps (List.replicate n .tick) s = .next t ∧ t.tick.toNat = (s.tick.toNat + n) % 256) ∧
  (∀ s : State, buildValid s.build = true →
    ∃ t, runOps (List.replicate 256 .tick) s = .next t ∧ t.tick = s.tick) ∧
  ∀ (s t : State) (v : TickWord), exec .tick s = .next t →
    exec .tick { s with tick := v } = .next { t with tick := BitVec.ofNat 8 ((v.toNat + 1) % 256) }

/-- R57: every TICK increments the counter, gated by nothing, and no operation but TICK and RESET writes it. -/
def Obligations.TickCounterIsFreeRunning : Prop :=
  ∀ (i : Instr) (s t : State), exec i s = .next t →
    t.tick = if i = .reset then 0 else if carriesTick i = true then s.tick + 1 else s.tick

/-! ## EDGE -/

/-- R60: EDGE in the closed form of the rule, with both readings of the clamp and of the accumulator as parameters.
`m` is the smaller of `last` and `tick`. -/
def Obligations.EdgeInClosedForm : Prop :=
  encode .edge = 0x1000#14 ∧
  ∀ s : State, buildValid s.build = true →
    let m := min s.last.toNat s.tick.toNat
    (s.build.debounce ≤ s.tick.toNat - m →
      exec .edge s = .next
        { s with
          power := !s.power
          last := s.tick
          out :=
            if s.power = true then
              match s.build.variant with
              | .a => { s.out with l0 := false }
              | .b => ⟨false, false, false⟩
            else s.out
          sum := if s.power = true ∧ s.build.accClearOnOff = true then 0 else s.sum
          count := if s.power = true ∧ s.build.accClearOnOff = true then 0 else s.count }) ∧
    (s.tick.toNat - m < s.build.debounce →
      exec .edge s = .next
        { s with last := if s.build.clampWriteback = true then BitVec.ofNat 8 m else s.last })

/-- The spec's own inference R66: where the clamp writes, an EDGE accepts, discards plainly or discards with clamp, and afterwards
`last <= tick`, with equality after an accept or a clamp. -/
def Obligations.EdgeHasThreeOutcomes : Prop :=
  ∀ s : State, buildValid s.build = true → s.build.clampWriteback = true →
    ∃ t, exec .edge s = .next t ∧ t.last.toNat ≤ t.tick.toNat ∧
      (s.last.toNat + s.build.debounce ≤ s.tick.toNat → t.power = !s.power ∧ t.last = s.tick ∧ t.tick = s.tick) ∧
      (s.last.toNat ≤ s.tick.toNat → s.tick.toNat < s.last.toNat + s.build.debounce → t = s) ∧
      (s.tick.toNat < s.last.toNat → t = { s with last := s.tick })

/-- R13, R65: `power` is flipped by an accepted EDGE, alone or in a compound, and by no other operation but RESET. -/
def Obligations.PowerFlipsOnlyOnAcceptedEdge : Prop :=
  ∀ (i : Instr) (s t : State), exec i s = .next t →
    t.power =
      if i = .reset then false
      else if carriesEdge i = true ∧ s.last.toNat + s.build.debounce ≤ s.tick.toNat then !s.power
      else s.power

/-- R12: `last` is written by EDGE (acceptance or clamp) with the count the EDGE saw, and otherwise by RESET alone. -/
def Obligations.LastIsWrittenOnlyByEdge : Prop :=
  ∀ (i : Instr) (s t : State), exec i s = .next t →
    t.last =
      if i = .reset then 0
      else if carriesEdge i = true ∧
          (s.last.toNat + s.build.debounce ≤ s.tick.toNat ∨
            s.tick.toNat < s.last.toNat ∧ s.build.clampWriteback = true) then s.tick
      else s.last

/-- The spec's own inference R67 (its item 4 but for one sentence, log 18): with `last = tick = L` left by the EDGE that last wrote `last` and `n` TICKs since (whatever else happened, no
RESET), the next EDGE is accepted exactly when `n mod 256` lies in `DEBOUNCE .. 255 - L`. Item 1: fewer than `DEBOUNCE`
ticks later never. Items 2 and 3: when the counter has passed 255 on the way the EDGE is clamped and only rewrites
`last`, and an EDGE `DEBOUNCE` or more ticks after it, before the next wrap, is accepted. Item 4: with
`L > 255 - DEBOUNCE` never. -/
def Obligations.WrapAcceptanceWindow : Prop :=
  ∀ (s u : State) (ops : List Instr), buildValid s.build = true → s.last = s.tick → (∀ i ∈ ops, i ≠ .reset) →
    runOps ops s = .next u → u.last = s.last →
    ∃ t, exec .edge u = .next t ∧
      (t.power = !u.power ↔
        s.build.debounce ≤ tickTotal ops % 256 ∧ tickTotal ops % 256 ≤ 255 - s.last.toNat) ∧
      (tickTotal ops < s.build.debounce → t.power = u.power) ∧
      (256 ≤ s.last.toNat + tickTotal ops % 256 → s.build.clampWriteback = true →
        t = { u with last := u.tick } ∧
        ∀ m, s.build.debounce ≤ m → u.tick.toNat + m ≤ 255 →
          ∃ v w, runOps (List.replicate m .tick) t = .next v ∧ exec .edge v = .next w ∧ w.power = !v.power) ∧
      (255 < s.last.toNat + s.build.debounce → t.power = u.power)

/-- The spec's own inferences R68 (a) and R67 item 1: from an accepted (or clamped) EDGE, no run with fewer than `DEBOUNCE` TICKs changes `power`,
however many EDGEs it holds and wherever the counter wraps. -/
def Obligations.BounceBurstNeverToggles : Prop :=
  ∀ (s t : State) (ops : List Instr), s.last = s.tick → (∀ i ∈ ops, i ≠ .reset) →
    tickTotal ops < s.build.debounce → runOps ops s = .next t → t.power = s.power

/-- R68 (b): a train of edges is not suppressed as a whole. In a build with `DEBOUNCE = 2`, after an accepted EDGE the
EDGE one tick later is discarded and the one after another tick is accepted. -/
def Obligations.LongBounceTrainTogglesAgain : Prop :=
  ∀ s : State, buildValid s.build = true → s.build.debounce = 2 → s.last = s.tick → s.tick.toNat ≤ 253 →
    ∃ u t, runOps [.tick, .edge] s = .next u ∧ u.power = s.power ∧ u.last = s.last ∧
      runOps [.tick, .edge] u = .next t ∧ t.power = !s.power

/-- The spec's own inference R131: after RESET an EDGE is a plain discard until `DEBOUNCE` TICKs have happened, one in variant A and two in
variant B, and right after them it is accepted. -/
def Obligations.DeadWindowAfterReset : Prop :=
  Build.hardwareA.debounce = 1 ∧ Build.hardwareB.debounce = 2 ∧
  ∀ (b : Build) (u : State) (ops : List Instr), buildValid b = true → (∀ i ∈ ops, i ≠ .reset) →
    runOps ops (State.resetOf b) = .next u →
    (tickTotal ops < b.debounce → exec .edge u = .next u) ∧
    (tickTotal ops + 1 = b.debounce → b.debounce ≤ 255 →
      ∃ t, runOps [.tick, .edge] u = .next t ∧ t.power = true)

/-- The spec's own inference R72: the reading with `CLAMP_WRITEBACK = 0`. An EDGE below `last + DEBOUNCE` writes nothing; with
`last > 255 - DEBOUNCE` no run without RESET ever changes `power` again; and the two readings agree on `power` and on
every line for each single EDGE and differ in `last` after a clamped one. -/
def Obligations.UnwrittenClampLocksTheSwitch : Prop :=
  (∀ s : State, buildValid s.build = true → s.build.clampWriteback = false →
    s.tick.toNat < s.last.toNat + s.build.debounce → exec .edge s = .next s) ∧
  (∀ (s t : State) (ops : List Instr), s.build.clampWriteback = false → 255 < s.last.toNat + s.build.debounce →
    (∀ i ∈ ops, i ≠ .reset) → runOps ops s = .next t → t.power = s.power ∧ t.last = s.last) ∧
  ∀ (s t u : State) (x y : Bool),
    exec .edge { s with build := { s.build with clampWriteback := x } } = .next t →
    exec .edge { s with build := { s.build with clampWriteback := y } } = .next u →
    t.power = u.power ∧ t.out = u.out ∧
      (s.tick.toNat < s.last.toNat → x = true → y = false → t.last = s.tick ∧ u.last = s.last)

/-- The spec's own inference R69: an accepted EDGE that turns the power on writes no line, so all stay dark; one that turns it off
leaves every line low in the same event. -/
def Obligations.TurningOnIsDarkAndOffIsImmediate : Prop :=
  ∀ s : State, buildValid s.build = true → s.last.toNat + s.build.debounce ≤ s.tick.toNat →
    (s.power = false → s.DarkWhenOff →
      ∃ t, exec .edge s = .next t ∧ t.power = true ∧ t.out = s.out ∧ ∀ level ∈ outPort t, level = false) ∧
    (s.power = true → ∃ t, exec .edge s = .next t ∧ t.power = false ∧ ∀ level ∈ outPort t, level = false)

/-- R134: an EDGE `n` ticks later is treated exactly like one `n mod 256` ticks later, and is discarded where
`n mod 256` (0 for 256 ticks, 1 for 257) is below the threshold and the count was `last` to begin with. -/
def Obligations.EdgeTimingAliasesModulo256 : Prop :=
  ∀ (n : Nat) (s : State), buildValid s.build = true →
    ∃ t u, runOps (List.replicate n .tick ++ [.edge]) s = .next t ∧
      runOps (List.replicate (n % 256) .tick ++ [.edge]) s = .next u ∧
      t.power = u.power ∧ t.last = u.last ∧ t.tick = u.tick ∧
      (s.last = s.tick → n % 256 < s.build.debounce → t.power = s.power)

/-- R137: a press held for `DEBOUNCE` ticks or longer toggles at the press and at the release (no wrap in between), so
`power` ends as it began and the lines are dark if it began off. -/
def Obligations.PressAndReleaseRestorePower : Prop :=
  ∀ (n : Nat) (s : State), buildValid s.build = true → s.last.toNat + s.build.debounce ≤ s.tick.toNat →
    s.build.debounce ≤ n → s.tick.toNat + n ≤ 255 →
    ∃ u t, exec .edge s = .next u ∧ u.power = !s.power ∧
      runOps (List.replicate n .tick ++ [.edge]) u = .next t ∧ t.power = s.power ∧
      (s.power = false → ∀ level ∈ outPort t, level = false)

/-! ## SAMPLE -/

/-- R76: while the power is off a SAMPLE changes nothing. -/
def Obligations.SampleWhileOffChangesNothing : Prop :=
  ∀ (raw : Nat) (s : State), buildValid s.build = true → s.build.variant = .a → raw ≤ s.build.rawMax →
    s.power = false → exec (.sample raw) s = .next s

/-- R75, R77, R78, R79: while on, a SAMPLE accumulates exactly; the one that fills the window decides on the truncated
average, by strict comparisons, and starts a new window. -/
def Obligations.SampleAccumulatesThenDecides : Prop :=
  ∀ (raw : Nat) (s : State), buildValid s.build = true → s.build.variant = .a → raw ≤ s.build.rawMax →
    s.power = true → s.AccumulatorInRange →
    (s.count.toNat + 1 < s.build.window →
      ∃ t, exec (.sample raw) s = .next t ∧ t = { s with sum := t.sum, count := t.count } ∧
        t.sum.toNat = s.sum.toNat + raw ∧ t.count.toNat = s.count.toNat + 1) ∧
    (s.count.toNat + 1 = s.build.window →
      exec (.sample raw) s = .next
        { s with
          sum := 0
          count := 0
          out := { s.out with
            l0 :=
              if s.build.high < (s.sum.toNat + raw) / s.build.window then true
              else if (s.sum.toNat + raw) / s.build.window < s.build.low then false
              else s.out.l0 } })

/-- The model's choice of log 7: a sum that does not fit 12 bits (no run reaches one) leaves a free value in `sum`;
the count advances as the rule says. It holds for every value of the draw count. -/
def Obligations.SumThatDoesNotFitIsFree : Prop :=
  ∀ (raw : Nat) (s : State), buildValid s.build = true → s.build.variant = .a → raw ≤ s.build.rawMax →
    s.power = true → s.count.toNat + 1 < s.build.window → 4096 ≤ s.sum.toNat + raw →
    exec (.sample raw) s = .next
      { s with
        sum := Config.freeSum s.draws
        count := BitVec.ofNat 2 (s.count.toNat + 1)
        draws := s.draws + 1 }

/-- The spec's own inference R80: this hardware's decision in terms of the exact sum: high from 1204, low to 799, unchanged between; the average
is bits 11 to 2 of a sum that fits 12 bits. -/
def Obligations.WindowDecisionBySum : Prop :=
  ∀ (raw : Nat) (s : State), s.build = Build.hardwareA → raw ≤ 1023 → s.power = true → s.AccumulatorInRange →
    s.count.toNat = 3 →
    let total := s.sum.toNat + raw
    total ≤ 4092 ∧ ((BitVec.ofNat 12 total).extractLsb' 2 10).toNat = total / 4 ∧
    (1204 ≤ total → exec (.sample raw) s = .next { s with sum := 0, count := 0, out := { s.out with l0 := true } }) ∧
    (total ≤ 799 → exec (.sample raw) s = .next { s with sum := 0, count := 0, out := { s.out with l0 := false } }) ∧
    (800 ≤ total → total ≤ 1203 → exec (.sample raw) s = .next { s with sum := 0, count := 0 })

/-- R82 and SP-4: from an empty accumulator, `WINDOW` samples make one decision, on their own average, and leave the
accumulator empty. -/
def Obligations.WindowOfSamplesDecidesOnItsAverage : Prop :=
  ∀ (s : State) (raws : List Nat), buildValid s.build = true → s.build.variant = .a → s.power = true →
    s.sum = 0 → s.count = 0 → raws.length = s.build.window → (∀ r ∈ raws, r ≤ s.build.rawMax) →
    runOps (raws.map .sample) s = .next
      { s with out := { s.out with
        l0 :=
          if s.build.high < raws.sum / s.build.window then true
          else if raws.sum / s.build.window < s.build.low then false
          else s.out.l0 } }

/-- From the spec's own inference R83: any number of windows whose averages lie in `LOW .. HIGH` changes nothing at all. -/
def Obligations.HysteresisBandHoldsTheOutput : Prop :=
  ∀ (s : State) (windows : List (List Nat)), buildValid s.build = true → s.build.variant = .a → s.power = true →
    s.sum = 0 → s.count = 0 →
    (∀ raws ∈ windows, raws.length = s.build.window ∧ (∀ r ∈ raws, r ≤ s.build.rawMax) ∧
      s.build.low ≤ raws.sum / s.build.window ∧ raws.sum / s.build.window ≤ s.build.high) →
    runOps (windows.flatten.map .sample) s = .next s

/-- The spec's own inference R83: in variant A the line rises only on a full window above `HIGH`, and falls only on a full window below `LOW`, on
an accepted EDGE that turns the power off, or on RESET. -/
def Obligations.LampChangesOnlyForItsCauses : Prop :=
  ∀ (i : Instr) (s t : State), s.build.variant = .a → s.AccumulatorInRange → exec i s = .next t →
    (s.out.l0 = false → t.out.l0 = true →
      ∃ raw, i.rawOperand = some raw ∧ s.count.toNat + 1 = s.build.window ∧
        s.build.high < (s.sum.toNat + raw) / s.build.window) ∧
    (s.out.l0 = true → t.out.l0 = false →
      i = .reset ∨
      (carriesEdge i = true ∧ s.power = true ∧ s.last.toNat + s.build.debounce ≤ s.tick.toNat) ∨
      ∃ raw, i.rawOperand = some raw ∧ s.count.toNat + 1 = s.build.window ∧
        (s.sum.toNat + raw) / s.build.window < s.build.low)

/-- R81, R138: with `ACC_CLEAR_ON_OFF = 0` a window interrupted by a power-off is completed by the first sample after
the next power-on, and the decision mixes the samples of both. -/
def Obligations.StaleWindowIsCompletedAfterPowerOn : Prop :=
  ∀ (raw : Nat) (s : State), buildValid s.build = true → s.build.variant = .a → s.build.accClearOnOff = false →
    s.power = true → s.AccumulatorInRange → s.count.toNat + 1 = s.build.window → raw ≤ s.build.rawMax →
    s.last.toNat + s.build.debounce ≤ s.tick.toNat → s.tick.toNat + s.build.debounce ≤ 255 →
    ∃ t, runOps ([.edge] ++ List.replicate s.build.debounce .tick ++ [.edge, .sample raw]) s = .next t ∧
      t.power = true ∧ t.sum = 0 ∧ t.count = 0 ∧
      t.out.l0 = decide (s.build.high < (s.sum.toNat + raw) / s.build.window)

/-- R81: an accepted power-off keeps the accumulator, or clears it where the build says so; RESET clears it in both. -/
def Obligations.PowerOffKeepsOrClearsTheAccumulator : Prop :=
  ∀ s : State, buildValid s.build = true →
    (s.power = true → s.last.toNat + s.build.debounce ≤ s.tick.toNat →
      ∃ t, exec .edge s = .next t ∧ t.power = false ∧
        (s.build.accClearOnOff = false → t.sum = s.sum ∧ t.count = s.count) ∧
        (s.build.accClearOnOff = true → t.sum = 0 ∧ t.count = 0)) ∧
    ∃ t, exec .reset s = .next t ∧ t.sum = 0 ∧ t.count = 0

/-! ## The rotation -/

/-- R88: the index goes 0, 1, 2, 0; it advances exactly when variant B takes a TICK with the power on (after the EDGE of
the same cycle), RESET returns it to 0, and nothing else writes it. -/
def Obligations.RotationIndexAdvancesOnlyWhileOn : Prop :=
  nextIndex .i0 = .i1 ∧ nextIndex .i1 = .i2 ∧ nextIndex .i2 = .i0 ∧
  ∀ (i : Instr) (s t : State), exec i s = .next t →
    t.idx =
      if i = .reset then .i0
      else if s.build.variant = .b ∧ carriesTick i = true ∧ t.power = true then nextIndex s.idx
      else s.idx

/-- The spec's own inference R91: from index 0 with the power on, three TICKs use the indices 0, 1, 2 once each, lighting each step's leading
line and darkening its trailing line, and return the index to 0, for any admissible tables. -/
def Obligations.ThreeTicksMakeOneRotation : Prop :=
  ∀ s : State, buildValid s.build = true → s.build.variant = .b → s.power = true → s.idx = .i0 →
    ∃ t u v, exec .tick s = .next t ∧ exec .tick t = .next u ∧ exec .tick u = .next v ∧
      t.idx = .i1 ∧ u.idx = .i2 ∧ v.idx = .i0 ∧
      lineLevel t.out s.build.lead.at0 = true ∧ lineLevel t.out s.build.trail.at0 = false ∧
      lineLevel u.out s.build.lead.at1 = true ∧ lineLevel u.out s.build.trail.at1 = false ∧
      lineLevel v.out s.build.lead.at2 = true ∧ lineLevel v.out s.build.trail.at2 = false

/-- The spec's own inference R90: with this hardware's tables, after the EDGE that turns the power on all lines are low, and after `n + 1` further
TICKs exactly one line is high, the `n`-th after the index's own in the order 0, 1, 2, 0. -/
def Obligations.OneLineRotates : Prop :=
  ∀ (n : Nat) (s : State), buildValid s.build = true → s.build.variant = .b →
    s.build.lead = ⟨.l0, .l1, .l2⟩ → s.build.trail = ⟨.l2, .l0, .l1⟩ → s.power = false → s.DarkWhenOff →
    s.last.toNat + s.build.debounce ≤ s.tick.toNat →
    ∃ u t, exec .edge s = .next u ∧ (∀ level ∈ outPort u, level = false) ∧
      runOps (List.replicate (n + 1) .tick) u = .next t ∧
      oneLineHigh t.out (tableAt s.build.lead (nextIndex^[n] s.idx)) ∧ t.idx = nextIndex^[n + 1] s.idx

/-- The spec's own inference R92: with the alternative table `TRAIL = [1, 2, 0]`, from all lines low with the power on, the first TICK lights one
line and from the second on exactly two lines are high: all but the one that leads next. -/
def Obligations.AlternativeTablesLightTwoLines : Prop :=
  ∀ (n : Nat) (s : State), buildValid s.build = true → s.build.variant = .b →
    s.build.lead = ⟨.l0, .l1, .l2⟩ → s.build.trail = ⟨.l1, .l2, .l0⟩ → s.power = true →
    s.out = ⟨false, false, false⟩ →
    ∃ u t, exec .tick s = .next u ∧ oneLineHigh u.out (tableAt s.build.lead s.idx) ∧
      runOps (List.replicate (n + 1) .tick) u = .next t ∧
      ∀ k, lineLevel t.out k = decide (k ≠ tableAt s.build.lead (nextIndex^[n + 2] s.idx))

/-! ## Compounds -/

/-- R97: a word with `rst = 0` means its events applied one after another, each to the state the previous one left, in
the order EDGE, TICK, SAMPLE; and every operation is its list of events. -/
def Obligations.OperationIsItsEventsInOrder : Prop :=
  (∀ (w : CycleWord) (s : State), buildValid s.build = true → w.getLsbD 13 = false →
    exec (decode w) s = runOps
      ((if w.getLsbD 12 = true then [.edge] else []) ++ (if w.getLsbD 11 = true then [.tick] else []) ++
        (if w.getLsbD 10 = true then [.sample (w.toNat % 1024)] else [])) s) ∧
  ∀ (i : Instr) (s : State), buildValid s.build = true → exec i s = runOps (expand i) s

/-- R97: each compound answers a next state, the one its events reach one after another; those with a sample event in
variant A with an operand in range. -/
def Obligations.CompoundsComplete : Prop :=
  ∀ (raw : Nat) (s : State), buildValid s.build = true →
    (∃ t u, exec .edge s = .next t ∧ exec .tick t = .next u ∧ exec .edgeTick s = .next u) ∧
    (s.build.variant = .a → raw ≤ s.build.rawMax →
      (∃ t u, exec .tick s = .next t ∧ exec (.sample raw) t = .next u ∧ exec (.tickSample raw) s = .next u) ∧
      (∃ t u, exec .edge s = .next t ∧ exec (.sample raw) t = .next u ∧ exec (.edgeSample raw) s = .next u) ∧
      ∃ t u v, exec .edge s = .next t ∧ exec .tick t = .next u ∧ exec (.sample raw) u = .next v ∧
        exec (.edgeTickSample raw) s = .next v)

/-- The spec's own inference R142: with the count one below the threshold the EDGE of `EDGE+TICK` is discarded where TICK then EDGE accepts it; a
SAMPLE that completes a window is gated off after the EDGE that turns the power off and acted on before it; TICK and
SAMPLE commute in variant A. -/
def Obligations.SimultaneousEventsAreOrderSensitive : Prop :=
  (∀ s : State, buildValid s.build = true → s.tick.toNat + 1 = s.last.toNat + s.build.debounce → s.tick.toNat < 255 →
    ∃ t u, exec .edgeTick s = .next t ∧ t.power = s.power ∧ runOps [.tick, .edge] s = .next u ∧ u.power = !s.power) ∧
  (∀ (raw : Nat) (s : State), buildValid s.build = true → s.build.variant = .a → s.build.accClearOnOff = false →
    raw ≤ s.build.rawMax → s.power = true → s.count.toNat + 1 = s.build.window →
    s.last.toNat + s.build.debounce ≤ s.tick.toNat →
    ∃ t u, exec (.edgeSample raw) s = .next t ∧ t.sum = s.sum ∧ t.count = s.count ∧
      runOps [.sample raw, .edge] s = .next u ∧ u.sum = 0 ∧ u.count = 0) ∧
  ∀ (raw : Nat) (s : State), s.build.variant = .a →
    runOps [.tick, .sample raw] s = runOps [.sample raw, .tick] s

/-! ## Refusals -/

/-- R45: in variant B exactly the words with `rst = 0` and `sample = 1` are refused; in variant A (with the full range of
raw samples) none is. -/
def Obligations.OnlyVariantBRefusesSampleWords : Prop :=
  ∀ (w : CycleWord) (s : State), buildValid s.build = true →
    (s.build.variant = .b → w.getLsbD 13 = false → w.getLsbD 10 = true →
      exec (decode w) s = .refused .noSamplePort) ∧
    (s.build.variant = .b → (w.getLsbD 13 = true ∨ w.getLsbD 10 = false) → ∃ t, exec (decode w) s = .next t) ∧
    (s.build.variant = .a → s.build.rawMax = 1023 → ∃ t, exec (decode w) s = .next t)

/-- D21, U8: in variant A a sample event whose operand is above `RAW_MAX` is refused, never clipped or wrapped. -/
def Obligations.OutOfRangeSampleIsRefused : Prop :=
  ∀ (i : Instr) (raw : Nat) (s : State), buildValid s.build = true → s.build.variant = .a →
    i.rawOperand = some raw → s.build.rawMax < raw → exec i s = .refused .rawOutOfRange

/-- U10: a parameter set that breaks a constraint of R5 is refused by every operation and every step. -/
def Obligations.InvalidBuildIsRefused : Prop :=
  ∀ (i : Instr) (s : State), buildValid s.build = false →
    exec i s = .refused .invalidBuild ∧ step s = .refused .invalidBuild

/-! ## Encoding -/

/-- Decode and encode agree: every well-formed operation is read back from its canonical word, with its operand. -/
def Obligations.DecodeEncodeRoundTrip : Prop :=
  ∀ i : Instr, i.wellFormed = true → decode (encode i) = i

/-- R43: every cycle word matches exactly one row of the map, decodes to that row's operation with the word's low ten bits
as operand, and the canonical word of an operation is its row's match value plus the operand. -/
def Obligations.EveryWordMatchesExactlyOneRow : Prop :=
  (∀ w : CycleWord, ∃ r ∈ opcodeRows, r.covers w = true ∧ r.mnemonic = mnemonicOf (decode w) ∧
    ∀ r' ∈ opcodeRows, r'.covers w = true → r' = r) ∧
  (∀ (w : CycleWord) (raw : Nat), (decode w).rawOperand = some raw → raw = w.toNat % 1024) ∧
  ∀ i : Instr, i.wellFormed = true →
    ∃ r ∈ opcodeRows, r.mnemonic = mnemonicOf i ∧ (encode i).toNat = r.value.toNat + i.rawOperand.getD 0

/-- R44: words that differ only in ignored bits are the same operation, and a canonical word has every ignored bit 0. -/
def Obligations.IgnoredBitsDoNotMatter : Prop :=
  (∀ w v : CycleWord, w.getLsbD 13 = true → v.getLsbD 13 = true → decode w = decode v) ∧
  (∀ w v : CycleWord, w.getLsbD 10 = false → w >>> 10 = v >>> 10 → decode w = decode v) ∧
  (∀ i : Instr, i.rawOperand = none → (encode i).toNat % 1024 = 0) ∧
  encode .reset = 0x2000#14 ∧
  ∀ w : CycleWord, decode (encode (decode w)) = decode w

/-- The spec's own inference R50: the worked encodings, and the three words that are not canonical. -/
def Obligations.WorkedEncodings : Prop :=
  encode .reset = 0x2000#14 ∧ encode .idle = 0x0000#14 ∧ encode .tick = 0x0800#14 ∧ encode .edge = 0x1000#14 ∧
  encode (.sample 350) = 0x055E#14 ∧ encode (.sample 100) = 0x0464#14 ∧ encode (.sample 250) = 0x04FA#14 ∧
  encode (.sample 1023) = 0x07FF#14 ∧ encode (.sample 0) = 0x0400#14 ∧ encode .edgeTick = 0x1800#14 ∧
  encode (.tickSample 300) = 0x0D2C#14 ∧ encode (.edgeTickSample 1023) = 0x1FFF#14 ∧
  decode 0x3FFF#14 = .reset ∧ decode 0x0955#14 = .tick ∧ decode 0x03FF#14 = .idle

/-! ## The pin level -/

/-- R98: one rising edge forms the cycle word from the pins, and applies the operation it decodes to; around it, `sw_prev`
takes `sw` and the pins have been read. -/
def Obligations.StepRunsTheDecodedOperation : Prop :=
  ∀ (s : State) (p : Pins) (ps : List Pins), s.inputs = p :: ps →
    fetchWord s = packWord p.rst (edgeDetect s.build.edgeSel p.sw s.swPrev) p.tickStb p.sampleStb p.sampleData ∧
    ∀ i : Instr, decode (fetchWord s) = i → i.wellFormed = true →
      step s = exec i { s with swPrev := p.sw, inputs := ps }

/-- R70: in a cycle with `rst = 0` the edge bit is the chosen transition of `sw` against `sw_prev`, and `sw_prev` becomes
`sw`; in a cycle with `rst = 1` it becomes 0. -/
def Obligations.EdgeDetectorRaisesTheChosenTransitions : Prop :=
  ∀ (s : State) (p : Pins) (ps : List Pins), s.inputs = p :: ps →
    ((fetchWord s).getLsbD 12 = true ↔
      match s.build.edgeSel with
      | .both => p.sw ≠ s.swPrev
      | .rise => p.sw = true ∧ s.swPrev = false
      | .fall => p.sw = false ∧ s.swPrev = true) ∧
    ∀ t, step s = .next t → t.swPrev = if p.rst = true then false else p.sw

/-- R100: a rising edge with `rst = 1` applies RESET and nothing else, whatever the other pins are. -/
def Obligations.ResetPinAppliesResetOnly : Prop :=
  ∀ (s : State) (p : Pins) (ps : List Pins), buildValid s.build = true → s.inputs = p :: ps → p.rst = true →
    step s = .next { State.resetOf s.build with inputs := ps, draws := s.draws }

/-- The spec's own inference in R71: in the first cycle after reset the idle level of the switch does not matter: an edge it raises is discarded. -/
def Obligations.SwitchIdleLevelDoesNotMatter : Prop :=
  ∀ (b : Build) (p : Pins) (ps : List Pins), buildValid b = true →
    p.rst = false → p.tickStb = false → p.sampleStb = false →
    step { State.resetOf b with inputs := p :: ps } = .next { State.resetOf b with swPrev := p.sw, inputs := ps }

/-- The model's choice of log 2: when no more pins are listed the cycle is quiet, an IDLE that changes nothing. -/
def Obligations.CycleWithoutListedPinsIsIdle : Prop :=
  ∀ s : State, buildValid s.build = true → s.inputs = [] →
    decode (fetchWord s) = .idle ∧ step s = .next s

/-- The model's choice of log 13: the word put on the pins for the next cycle is the one that cycle takes, from every
state and in every build, and the registers but `sw_prev` and the later cycles' pins stay. -/
def Obligations.PresentedWordIsTaken : Prop :=
  ∀ (s : State) (w : CycleWord),
    fetchWord (presentWord s w) = w ∧
    { presentWord s w with swPrev := s.swPrev, inputs := s.inputs } = s ∧
    (presentWord s w).inputs.tail = s.inputs.tail

/-- The spec's own inference R103: every pin-level run is an event-level run. Running all the listed cycles reaches the same outcome as applying
the operations their cycle words expand to, `sw_prev` and the pins put aside. -/
def Obligations.PinRunIsItsEventRun : Prop :=
  ∀ s : State, buildValid s.build = true →
    outcomeWithoutPins (Host.Core.run core s.inputs.length s) =
      outcomeWithoutPins
        (runOps ((wordsOfPins s.build.edgeSel s.swPrev s.inputs).flatMap fun w => expand (decode w)) s)

/-- The spec's own inference R103, the converse: where both transitions are events, every list of well-formed operations is what some pins, one
cycle each, decode to. -/
def Obligations.EventRunHasAPinRun : Prop :=
  ∀ (swPrev : Bool) (ops : List Instr), (∀ i ∈ ops, i.wellFormed = true) →
    ∃ ps : List Pins, ps.length = ops.length ∧ (wordsOfPins .both swPrev ps).map decode = ops

/-- R102 item 1, U14: a `tick_stb` held high for `k` cycles is `k` TICKs. The whole state after the cycles is the one `k`
TICKs reach, the rotation of variant B and the accumulator included, with no pins left; its counter has advanced by `k`
modulo 256. -/
def Obligations.HeldTickStrobeIsOneTickPerCycle : Prop :=
  ∀ (k : Nat) (s : State) (d : RawWord), buildValid s.build = true →
    s.inputs = List.replicate k ⟨false, true, s.swPrev, false, d⟩ →
    outcomeWithoutPins (Host.Core.run core k s) = outcomeWithoutPins (runOps (List.replicate k .tick) s) ∧
    ∃ t, runOps (List.replicate k .tick) s = .next t ∧ Host.Core.run core k s = .next { t with inputs := [] } ∧
      t.tick.toNat = (s.tick.toNat + k) % 256 ∧ t.last = s.last ∧ t.power = s.power

/-! ## The whole machine -/

/-- Inv (a specified build, R16, R19, R26) holds after RESET of every specified build. -/
def Obligations.InvHoldsAtReset : Prop :=
  State.reset.Inv ∧ ∀ b : Build, buildValid b = true → (State.resetOf b).Inv

/-- Every clock cycle keeps Inv, from every state that has it and with any pins. -/
def Obligations.StepKeepsInv : Prop :=
  ∀ s t : State, s.Inv → step s = .next t → t.Inv

/-- The spec's own inference R16: whatever operations follow RESET, the accumulator holds a window not yet full, its sum fits 12 bits with the
next sample added, and no free value is ever drawn. -/
def Obligations.AccumulatorNeverOverflows : Prop :=
  ∀ (b : Build) (ops : List Instr) (t : State), runOps ops (State.resetOf b) = .next t → buildValid b = true →
    t.count.toNat ≤ b.window - 1 ∧ t.sum.toNat ≤ t.count.toNat * b.rawMax ∧ t.sum.toNat ≤ 3069 ∧
      (∀ raw ≤ b.rawMax, t.sum.toNat + raw ≤ 4092) ∧ t.draws = (State.resetOf b).draws

/-- The spec's own inference R19: whatever operations follow RESET, while the power is off every line is low. -/
def Obligations.LinesAreLowWheneverOff : Prop :=
  ∀ (b : Build) (ops : List Instr) (t : State), runOps ops (State.resetOf b) = .next t → t.power = false →
    ∀ l ∈ linesOf b.variant, lineLevel t.out l = false

/-- The spec's own inference R26: whatever operations follow RESET, a register the variant does not have holds 0. -/
def Obligations.AbsentRegistersHoldZero : Prop :=
  ∀ (b : Build) (ops : List Instr) (t : State), runOps ops (State.resetOf b) = .next t →
    (b.variant = .a → t.idx = .i0 ∧ t.out.l1 = false ∧ t.out.l2 = false) ∧
    (b.variant = .b → t.sum = 0 ∧ t.count = 0)

/-- R110: every cycle the hardware can be given ends in a next state, and no step faults. -/
def Obligations.EveryCycleCompletes : Prop :=
  ∀ s : State, buildValid s.build = true →
    (s.build.variant = .a → s.build.rawMax = 1023 → ∃ t, step s = .next t) ∧
    (s.build.variant = .b → ((currentPins s).rst = true ∨ (currentPins s).sampleStb = false) →
      ∃ t, step s = .next t) ∧
    ∀ r, step s ≠ .fault r

/-- R5, R22: no run of clock cycles writes a constant of the build. -/
def Obligations.BuildIsNeverWritten : Prop :=
  ∀ (k : Nat) (s t : State), Host.Core.run core k s = .next t → t.build = s.build

/-- R11: only EDGE reads `tick` and `last`. For any other operation, starting with other values there changes nothing
else in the result. -/
def Obligations.OnlyEdgeReadsTickAndLast : Prop :=
  ∀ (i : Instr) (s t : State) (v l : TickWord), carriesEdge i = false → i ≠ .reset → exec i s = .next t →
    exec i { s with tick := v, last := l } =
      .next { t with tick := if carriesTick i = true then v + 1 else v, last := l }

/-- From R60 and the spec's own inference R67: what an EDGE does to `power`, the lines and the accumulator depends on
`tick` and `last` only through whether `tick` has reached `last + DEBOUNCE`: two states that agree otherwise and in that
answer get the same results. Nothing is said of `last`, which also depends on whether `tick` is below it (R66); that is
LastIsWrittenOnlyByEdge. -/
def Obligations.EdgeDependsOnlyOnTheThreshold : Prop :=
  ∀ (s t u : State) (v l : TickWord),
    (s.last.toNat + s.build.debounce ≤ s.tick.toNat ↔ l.toNat + s.build.debounce ≤ v.toNat) →
    exec .edge s = .next t → exec .edge { s with tick := v, last := l } = .next u →
    { t with tick := v, last := u.last } = u
end

