-- ==== Sys2Proof/Laws/Decode.lean ====
section
/-! SUPPORT. The fields of a packed cycle word, and the decoder in terms of the four event bits. -/

namespace Sys2Proof

variable (rst edge tick sample : Bool) (x : RawWord)

@[simp] theorem fieldRst_packWord : fieldRst (packWord rst edge tick sample x) = rst := by
  simp only [fieldRst, packWord, BitVec.getLsbD_append]
  simp

@[simp] theorem fieldEdge_packWord : fieldEdge (packWord rst edge tick sample x) = edge := by
  simp only [fieldEdge, packWord, BitVec.getLsbD_append]
  simp

@[simp] theorem fieldTick_packWord : fieldTick (packWord rst edge tick sample x) = tick := by
  simp only [fieldTick, packWord, BitVec.getLsbD_append]
  simp

@[simp] theorem fieldSample_packWord : fieldSample (packWord rst edge tick sample x) = sample := by
  simp only [fieldSample, packWord, BitVec.getLsbD_append]
  simp

@[simp] theorem fieldData_packWord : fieldData (packWord rst edge tick sample x) = x.toNat := by
  unfold fieldData packWord
  rw [BitVec.extractLsb'_append_eq_right]

/-- The operand is the word's low ten bits (R42). -/
theorem fieldData_eq (w : CycleWord) : fieldData w = w.toNat % 1024 := by
  simp [fieldData]

theorem fieldData_lt (w : CycleWord) : fieldData w < 1024 := by
  rw [fieldData_eq]
  exact Nat.mod_lt _ (by decide)

/-- What the decoder reads is always well-formed. -/
theorem decode_wellFormed (w : CycleWord) : (decode w).wellFormed = true := by
  have h := fieldData_lt w
  unfold decode
  split <;> simp [Instr.wellFormed, Instr.rawOperand, h]

/-- The decoder reads a word's four event bits, and its data only with a sample event. -/
theorem decode_congr {w v : CycleWord} (hr : fieldRst w = fieldRst v) (he : fieldEdge w = fieldEdge v)
    (ht : fieldTick w = fieldTick v) (hs : fieldSample w = fieldSample v)
    (hd : fieldSample w = true → fieldData w = fieldData v) : decode w = decode v := by
  unfold decode
  rw [← hr, ← he, ← ht, ← hs]
  split <;> simp_all

end Sys2Proof
end

