-- ==== Sys2Proof/Laws/State.lean ====
section
/-! SUPPORT. One lemma per field per register write of Machine/Ops.lean. -/

namespace Sys2Proof.Machine

variable (s : State)

@[simp] theorem setTick_build (v : TickWord) : (setTick s v).build = s.build := rfl
@[simp] theorem setTick_tick (v : TickWord) : (setTick s v).tick = v := rfl
@[simp] theorem setTick_last (v : TickWord) : (setTick s v).last = s.last := rfl
@[simp] theorem setTick_power (v : TickWord) : (setTick s v).power = s.power := rfl
@[simp] theorem setTick_sum (v : TickWord) : (setTick s v).sum = s.sum := rfl
@[simp] theorem setTick_count (v : TickWord) : (setTick s v).count = s.count := rfl
@[simp] theorem setTick_idx (v : TickWord) : (setTick s v).idx = s.idx := rfl
@[simp] theorem setTick_out (v : TickWord) : (setTick s v).out = s.out := rfl
@[simp] theorem setTick_swPrev (v : TickWord) : (setTick s v).swPrev = s.swPrev := rfl
@[simp] theorem setTick_inputs (v : TickWord) : (setTick s v).inputs = s.inputs := rfl
@[simp] theorem setTick_draws (v : TickWord) : (setTick s v).draws = s.draws := rfl

@[simp] theorem setLast_build (v : TickWord) : (setLast s v).build = s.build := rfl
@[simp] theorem setLast_tick (v : TickWord) : (setLast s v).tick = s.tick := rfl
@[simp] theorem setLast_last (v : TickWord) : (setLast s v).last = v := rfl
@[simp] theorem setLast_power (v : TickWord) : (setLast s v).power = s.power := rfl
@[simp] theorem setLast_sum (v : TickWord) : (setLast s v).sum = s.sum := rfl
@[simp] theorem setLast_count (v : TickWord) : (setLast s v).count = s.count := rfl
@[simp] theorem setLast_idx (v : TickWord) : (setLast s v).idx = s.idx := rfl
@[simp] theorem setLast_out (v : TickWord) : (setLast s v).out = s.out := rfl
@[simp] theorem setLast_swPrev (v : TickWord) : (setLast s v).swPrev = s.swPrev := rfl
@[simp] theorem setLast_inputs (v : TickWord) : (setLast s v).inputs = s.inputs := rfl
@[simp] theorem setLast_draws (v : TickWord) : (setLast s v).draws = s.draws := rfl

@[simp] theorem setPower_build (v : Bool) : (setPower s v).build = s.build := rfl
@[simp] theorem setPower_tick (v : Bool) : (setPower s v).tick = s.tick := rfl
@[simp] theorem setPower_last (v : Bool) : (setPower s v).last = s.last := rfl
@[simp] theorem setPower_power (v : Bool) : (setPower s v).power = v := rfl
@[simp] theorem setPower_sum (v : Bool) : (setPower s v).sum = s.sum := rfl
@[simp] theorem setPower_count (v : Bool) : (setPower s v).count = s.count := rfl
@[simp] theorem setPower_idx (v : Bool) : (setPower s v).idx = s.idx := rfl
@[simp] theorem setPower_out (v : Bool) : (setPower s v).out = s.out := rfl
@[simp] theorem setPower_swPrev (v : Bool) : (setPower s v).swPrev = s.swPrev := rfl
@[simp] theorem setPower_inputs (v : Bool) : (setPower s v).inputs = s.inputs := rfl
@[simp] theorem setPower_draws (v : Bool) : (setPower s v).draws = s.draws := rfl

@[simp] theorem setAccumulator_build (v : SumWord) (c : CountWord) : (setAccumulator s v c).build = s.build := rfl
@[simp] theorem setAccumulator_tick (v : SumWord) (c : CountWord) : (setAccumulator s v c).tick = s.tick := rfl
@[simp] theorem setAccumulator_last (v : SumWord) (c : CountWord) : (setAccumulator s v c).last = s.last := rfl
@[simp] theorem setAccumulator_power (v : SumWord) (c : CountWord) : (setAccumulator s v c).power = s.power := rfl
@[simp] theorem setAccumulator_sum (v : SumWord) (c : CountWord) : (setAccumulator s v c).sum = v := rfl
@[simp] theorem setAccumulator_count (v : SumWord) (c : CountWord) : (setAccumulator s v c).count = c := rfl
@[simp] theorem setAccumulator_idx (v : SumWord) (c : CountWord) : (setAccumulator s v c).idx = s.idx := rfl
@[simp] theorem setAccumulator_out (v : SumWord) (c : CountWord) : (setAccumulator s v c).out = s.out := rfl
@[simp] theorem setAccumulator_swPrev (v : SumWord) (c : CountWord) : (setAccumulator s v c).swPrev = s.swPrev := rfl
@[simp] theorem setAccumulator_inputs (v : SumWord) (c : CountWord) : (setAccumulator s v c).inputs = s.inputs := rfl
@[simp] theorem setAccumulator_draws (v : SumWord) (c : CountWord) : (setAccumulator s v c).draws = s.draws := rfl

@[simp] theorem setIdx_build (v : RotIndex) : (setIdx s v).build = s.build := rfl
@[simp] theorem setIdx_tick (v : RotIndex) : (setIdx s v).tick = s.tick := rfl
@[simp] theorem setIdx_last (v : RotIndex) : (setIdx s v).last = s.last := rfl
@[simp] theorem setIdx_power (v : RotIndex) : (setIdx s v).power = s.power := rfl
@[simp] theorem setIdx_sum (v : RotIndex) : (setIdx s v).sum = s.sum := rfl
@[simp] theorem setIdx_count (v : RotIndex) : (setIdx s v).count = s.count := rfl
@[simp] theorem setIdx_idx (v : RotIndex) : (setIdx s v).idx = v := rfl
@[simp] theorem setIdx_out (v : RotIndex) : (setIdx s v).out = s.out := rfl
@[simp] theorem setIdx_swPrev (v : RotIndex) : (setIdx s v).swPrev = s.swPrev := rfl
@[simp] theorem setIdx_inputs (v : RotIndex) : (setIdx s v).inputs = s.inputs := rfl
@[simp] theorem setIdx_draws (v : RotIndex) : (setIdx s v).draws = s.draws := rfl

@[simp] theorem setOutput_build (l : Line) (b : Bool) : (setOutput s l b).build = s.build := rfl
@[simp] theorem setOutput_tick (l : Line) (b : Bool) : (setOutput s l b).tick = s.tick := rfl
@[simp] theorem setOutput_last (l : Line) (b : Bool) : (setOutput s l b).last = s.last := rfl
@[simp] theorem setOutput_power (l : Line) (b : Bool) : (setOutput s l b).power = s.power := rfl
@[simp] theorem setOutput_sum (l : Line) (b : Bool) : (setOutput s l b).sum = s.sum := rfl
@[simp] theorem setOutput_count (l : Line) (b : Bool) : (setOutput s l b).count = s.count := rfl
@[simp] theorem setOutput_idx (l : Line) (b : Bool) : (setOutput s l b).idx = s.idx := rfl
@[simp] theorem setOutput_out (l : Line) (b : Bool) : (setOutput s l b).out = writeLine s.out l b := rfl
@[simp] theorem setOutput_swPrev (l : Line) (b : Bool) : (setOutput s l b).swPrev = s.swPrev := rfl
@[simp] theorem setOutput_inputs (l : Line) (b : Bool) : (setOutput s l b).inputs = s.inputs := rfl
@[simp] theorem setOutput_draws (l : Line) (b : Bool) : (setOutput s l b).draws = s.draws := rfl

@[simp] theorem setSwPrev_build (v : Bool) : (setSwPrev s v).build = s.build := rfl
@[simp] theorem setSwPrev_tick (v : Bool) : (setSwPrev s v).tick = s.tick := rfl
@[simp] theorem setSwPrev_last (v : Bool) : (setSwPrev s v).last = s.last := rfl
@[simp] theorem setSwPrev_power (v : Bool) : (setSwPrev s v).power = s.power := rfl
@[simp] theorem setSwPrev_sum (v : Bool) : (setSwPrev s v).sum = s.sum := rfl
@[simp] theorem setSwPrev_count (v : Bool) : (setSwPrev s v).count = s.count := rfl
@[simp] theorem setSwPrev_idx (v : Bool) : (setSwPrev s v).idx = s.idx := rfl
@[simp] theorem setSwPrev_out (v : Bool) : (setSwPrev s v).out = s.out := rfl
@[simp] theorem setSwPrev_swPrev (v : Bool) : (setSwPrev s v).swPrev = v := rfl
@[simp] theorem setSwPrev_inputs (v : Bool) : (setSwPrev s v).inputs = s.inputs := rfl
@[simp] theorem setSwPrev_draws (v : Bool) : (setSwPrev s v).draws = s.draws := rfl

@[simp] theorem setInputs_build (ps : List Pins) : (setInputs s ps).build = s.build := rfl
@[simp] theorem setInputs_tick (ps : List Pins) : (setInputs s ps).tick = s.tick := rfl
@[simp] theorem setInputs_last (ps : List Pins) : (setInputs s ps).last = s.last := rfl
@[simp] theorem setInputs_power (ps : List Pins) : (setInputs s ps).power = s.power := rfl
@[simp] theorem setInputs_sum (ps : List Pins) : (setInputs s ps).sum = s.sum := rfl
@[simp] theorem setInputs_count (ps : List Pins) : (setInputs s ps).count = s.count := rfl
@[simp] theorem setInputs_idx (ps : List Pins) : (setInputs s ps).idx = s.idx := rfl
@[simp] theorem setInputs_out (ps : List Pins) : (setInputs s ps).out = s.out := rfl
@[simp] theorem setInputs_swPrev (ps : List Pins) : (setInputs s ps).swPrev = s.swPrev := rfl
@[simp] theorem setInputs_inputs (ps : List Pins) : (setInputs s ps).inputs = ps := rfl
@[simp] theorem setInputs_draws (ps : List Pins) : (setInputs s ps).draws = s.draws := rfl

@[simp] theorem countDraw_build : (countDraw s).build = s.build := rfl
@[simp] theorem countDraw_tick : (countDraw s).tick = s.tick := rfl
@[simp] theorem countDraw_last : (countDraw s).last = s.last := rfl
@[simp] theorem countDraw_power : (countDraw s).power = s.power := rfl
@[simp] theorem countDraw_sum : (countDraw s).sum = s.sum := rfl
@[simp] theorem countDraw_count : (countDraw s).count = s.count := rfl
@[simp] theorem countDraw_idx : (countDraw s).idx = s.idx := rfl
@[simp] theorem countDraw_out : (countDraw s).out = s.out := rfl
@[simp] theorem countDraw_swPrev : (countDraw s).swPrev = s.swPrev := rfl
@[simp] theorem countDraw_inputs : (countDraw s).inputs = s.inputs := rfl
@[simp] theorem countDraw_draws : (countDraw s).draws = s.draws + 1 := rfl

@[simp] theorem lineLevel_writeLine (o : Lines) (l k : Line) (b : Bool) :
    lineLevel (writeLine o l b) k = if k = l then b else lineLevel o k := by
  cases l <;> cases k <;> rfl

/-- Lines agree when their levels do. -/
theorem lines_ext_level {o p : Lines} (h : ∀ k, lineLevel o k = lineLevel p k) : o = p := by
  cases o
  cases p
  exact congr (congr (congrArg Lines.mk (h .l0)) (h .l1)) (h .l2)

end Sys2Proof.Machine
end

