-- ==== Sys2Proof/Laws/Ops.lean ====
section
/-! SUPPORT. One lemma for each shared operation of Machine/Ops.lean, Flags.lean and Operands.lean: all it can do. -/

namespace Sys2Proof.Machine

theorem onBuild_next {s t : State} {f : State → State} :
    onBuild s f = .next t ↔ buildValid s.build = true ∧ t = f s := by
  unfold onBuild
  split <;> rename_i h
  · simp only [h, Host.Outcome.next.injEq, true_and]
    exact eq_comm
  · simp [h]

theorem onBuild_of_valid {s : State} {f : State → State} (h : buildValid s.build = true) :
    onBuild s f = .next (f s) := by
  simp [onBuild, h]

theorem onSamplePort_next {s t : State} {raw : Nat} {f : State → State} :
    onSamplePort s raw f = .next t ↔
      buildValid s.build = true ∧ s.build.variant = .a ∧ raw ≤ s.build.rawMax ∧ t = f s := by
  unfold onSamplePort
  split <;> rename_i h
  · split <;> rename_i hv
    · simp [hv]
    · split <;> rename_i hr <;> simp only [rawInRange, decide_eq_true_eq] at hr
      · simp only [h, hv, hr, Host.Outcome.next.injEq, true_and]
        exact eq_comm
      · simp [hr]
  · simp [h]

theorem onSamplePort_of_valid {s : State} {raw : Nat} {f : State → State} (h : buildValid s.build = true)
    (hv : s.build.variant = .a) (hr : raw ≤ s.build.rawMax) : onSamplePort s raw f = .next (f s) := by
  simp [onSamplePort, rawInRange, h, hv, hr]

/-- A valid build's constraints, each by itself (R5). -/
theorem buildValid_iff {b : Build} :
    buildValid b = true ↔
      1 ≤ b.debounce ∧ 1 ≤ b.window ∧ b.window ≤ 4 ∧ b.rawMax ≤ 1023 ∧ b.window * b.rawMax < 4096 ∧ b.low ≤ b.high ∧
        isPermutation b.lead = true ∧ isPermutation b.trail = true ∧ tablesDisjoint b.lead b.trail = true := by
  simp only [buildValid, Bool.and_eq_true, decide_eq_true_eq, and_assoc]

theorem hardwareA_valid : buildValid Build.hardwareA = true := by decide

theorem hardwareB_valid : buildValid Build.hardwareB = true := by decide

theorem lead_ne_trail {lead trail : LineTable} (h : tablesDisjoint lead trail = true) (i : RotIndex) :
    tableAt trail i ≠ tableAt lead i := by
  simp only [tablesDisjoint, Bool.and_eq_true, decide_eq_true_eq] at h
  cases i
  · exact h.1.1
  · exact h.1.2
  · exact h.2

/-- Writing lines low changes `out` alone. -/
theorem linesLow_eq (s : State) (ls : List Line) : ∃ o, linesLow s ls = { s with out := o } := by
  induction ls generalizing s with
  | nil => exact ⟨s.out, rfl⟩
  | cons l ls ih => exact (ih (setOutput s l false)).imp fun _ h => h

/-- `AllOutputsLow()` changes `out` alone, and there only the variant's lines. -/
theorem allOutputsLow_eq (s : State) :
    allOutputsLow s =
      { s with out := match s.build.variant with
        | .a => { s.out with l0 := false }
        | .b => ⟨false, false, false⟩ } := by
  unfold allOutputsLow
  cases s.build.variant <;> rfl

@[simp] theorem allOutputsLow_build (s : State) : (allOutputsLow s).build = s.build := by rw [allOutputsLow_eq]
@[simp] theorem allOutputsLow_tick (s : State) : (allOutputsLow s).tick = s.tick := by rw [allOutputsLow_eq]
@[simp] theorem allOutputsLow_last (s : State) : (allOutputsLow s).last = s.last := by rw [allOutputsLow_eq]
@[simp] theorem allOutputsLow_power (s : State) : (allOutputsLow s).power = s.power := by rw [allOutputsLow_eq]
@[simp] theorem allOutputsLow_sum (s : State) : (allOutputsLow s).sum = s.sum := by rw [allOutputsLow_eq]
@[simp] theorem allOutputsLow_count (s : State) : (allOutputsLow s).count = s.count := by rw [allOutputsLow_eq]
@[simp] theorem allOutputsLow_idx (s : State) : (allOutputsLow s).idx = s.idx := by rw [allOutputsLow_eq]
@[simp] theorem allOutputsLow_swPrev (s : State) : (allOutputsLow s).swPrev = s.swPrev := by rw [allOutputsLow_eq]
@[simp] theorem allOutputsLow_inputs (s : State) : (allOutputsLow s).inputs = s.inputs := by rw [allOutputsLow_eq]
@[simp] theorem allOutputsLow_draws (s : State) : (allOutputsLow s).draws = s.draws := by rw [allOutputsLow_eq]

/-- After `AllOutputsLow()` the port shows no high line. -/
theorem outPort_allOutputsLow (s : State) : ∀ level ∈ outPort (allOutputsLow s), level = false := by
  rw [allOutputsLow_eq]
  unfold outPort
  cases s.build.variant <;> simp [linesOf, lineLevel]

/-- A total that fits is stored exactly; no free value is drawn. -/
theorem storeAccumulator_of_fits {s : State} {total c : Nat} (h : total < 4096) :
    storeAccumulator s total c = setAccumulator s (BitVec.ofNat 12 total) (BitVec.ofNat 2 c) := if_pos h

/-- Storing changes the accumulator and the draw count alone. -/
theorem storeAccumulator_eq (s : State) (total c : Nat) :
    ∃ v d, storeAccumulator s total c = { s with sum := v, count := BitVec.ofNat 2 c, draws := d } := by
  unfold storeAccumulator
  split
  · exact ⟨_, _, rfl⟩
  · exact ⟨_, _, rfl⟩

/-- The clamp is made exactly when the counter is below `last` (R62). -/
theorem clampApplies_iff (s : State) : clampApplies s = true ↔ s.tick.toNat < s.last.toNat := by
  simp [clampApplies]

/-- The elapsed count in one expression: the truncated difference is 0 exactly where the clamp makes it 0 (R63). -/
theorem elapsedTicks_eq (s : State) : elapsedTicks s = s.tick.toNat - s.last.toNat := by
  unfold elapsedTicks clampedLast clampApplies
  by_cases h : s.tick.toNat < s.last.toNat
  · simp [h, Nat.sub_eq_zero_of_le (Nat.le_of_lt h)]
  · simp [h]

theorem edgeAccepted_iff (s : State) : edgeAccepted s = true ↔ s.build.debounce ≤ s.tick.toNat - s.last.toNat := by
  simp [edgeAccepted, elapsedTicks_eq]

end Sys2Proof.Machine
end

