-- ==== Sys2Proof/Laws/Events.lean ====
section
/-! SUPPORT. What each event writes and what it leaves, field by field, and each event's result case by case. -/

namespace Sys2Proof.Machine

section Tick

theorem tickEvent_of_a {s : State} (h : s.build.variant = .a) : tickEvent s = setTick s (s.tick + 1) := by
  simp [tickEvent, h]

theorem tickEvent_of_b_off {s : State} (h : s.build.variant = .b) (hp : s.power = false) :
    tickEvent s = setTick s (s.tick + 1) := by
  simp [tickEvent, rotatorStep, h, hp]

theorem tickEvent_of_b_on {s : State} (h : s.build.variant = .b) (hp : s.power = true) :
    tickEvent s =
      { s with
        tick := s.tick + 1
        idx := nextIndex s.idx
        out := writeLine (writeLine s.out (tableAt s.build.trail s.idx) false) (tableAt s.build.lead s.idx) true } := by
  simp [tickEvent, rotatorStep, h, hp, setIdx, setOutput, setTick]

/-- TICK writes `tick`, `idx` and `out`, nothing else. -/
theorem tickEvent_eq (s : State) :
    ∃ i o, tickEvent s = { s with tick := s.tick + 1, idx := i, out := o } := by
  have hv : s.build.variant = .a ∨ s.build.variant = .b := by cases s.build.variant <;> simp
  obtain hv | hv := hv
  · exact ⟨s.idx, s.out, tickEvent_of_a hv⟩
  · obtain hp | hp := Bool.eq_false_or_eq_true s.power
    · exact ⟨_, _, tickEvent_of_b_on hv hp⟩
    · exact ⟨s.idx, s.out, tickEvent_of_b_off hv hp⟩

variable (s : State)

@[simp] theorem tickEvent_build : (tickEvent s).build = s.build := by obtain ⟨i, o, h⟩ := tickEvent_eq s; rw [h]
@[simp] theorem tickEvent_tick : (tickEvent s).tick = s.tick + 1 := by obtain ⟨i, o, h⟩ := tickEvent_eq s; rw [h]
@[simp] theorem tickEvent_last : (tickEvent s).last = s.last := by obtain ⟨i, o, h⟩ := tickEvent_eq s; rw [h]
@[simp] theorem tickEvent_power : (tickEvent s).power = s.power := by obtain ⟨i, o, h⟩ := tickEvent_eq s; rw [h]
@[simp] theorem tickEvent_sum : (tickEvent s).sum = s.sum := by obtain ⟨i, o, h⟩ := tickEvent_eq s; rw [h]
@[simp] theorem tickEvent_count : (tickEvent s).count = s.count := by obtain ⟨i, o, h⟩ := tickEvent_eq s; rw [h]
@[simp] theorem tickEvent_swPrev : (tickEvent s).swPrev = s.swPrev := by obtain ⟨i, o, h⟩ := tickEvent_eq s; rw [h]
@[simp] theorem tickEvent_inputs : (tickEvent s).inputs = s.inputs := by obtain ⟨i, o, h⟩ := tickEvent_eq s; rw [h]
@[simp] theorem tickEvent_draws : (tickEvent s).draws = s.draws := by obtain ⟨i, o, h⟩ := tickEvent_eq s; rw [h]

/-- TICK and a change of the pins to come commute: no event reads or writes them. -/
theorem tickEvent_setInputs (ps : List Pins) : tickEvent (setInputs s ps) = setInputs (tickEvent s) ps := by
  have hv : s.build.variant = .a ∨ s.build.variant = .b := by cases s.build.variant <;> simp
  obtain hv | hv := hv
  · simp [tickEvent_of_a, hv, setTick, setInputs]
  · cases hp : s.power
    · simp [tickEvent_of_b_off, hv, hp, setTick, setInputs]
    · simp [tickEvent_of_b_on, hv, hp, setInputs]

end Tick

section Edge

/-- A discarded EDGE writes at most `last`, and that only by the clamp (R62, R64). -/
theorem edgeEvent_of_discarded {s : State} (h : s.tick.toNat - s.last.toNat < s.build.debounce) :
    edgeEvent s = if s.tick.toNat < s.last.toNat ∧ s.build.clampWriteback = true then setLast s s.tick else s := by
  have ha : ¬ edgeAccepted s = true := by rw [edgeAccepted_iff]; omega
  rw [edgeEvent, if_neg ha, clampStep]
  simp only [Bool.and_eq_true, clampApplies_iff]

/-- An accepted EDGE that turns the power on writes `power` and `last` alone (R65, R69). -/
theorem edgeEvent_of_accepted_on {s : State} (h : s.build.debounce ≤ s.tick.toNat - s.last.toNat)
    (hd : 1 ≤ s.build.debounce) (hp : s.power = false) :
    edgeEvent s = { s with power := true, last := s.tick } := by
  have hc : ¬ (clampApplies s && s.build.clampWriteback) = true := by
    rw [Bool.and_eq_true, clampApplies_iff]; omega
  rw [edgeEvent, if_pos ((edgeAccepted_iff s).2 h), clampStep, if_neg hc]
  simp [acceptEdge, flippedPower, hp, setPower, setLast]

/-- An accepted EDGE that turns the power off also forces the lines low and, in a build that says so, clears the
accumulator (R65, R81). -/
theorem edgeEvent_of_accepted_off {s : State} (h : s.build.debounce ≤ s.tick.toNat - s.last.toNat)
    (hd : 1 ≤ s.build.debounce) (hp : s.power = true) :
    edgeEvent s =
      { s with
        power := false
        last := s.tick
        out := (allOutputsLow s).out
        sum := if s.build.accClearOnOff then 0 else s.sum
        count := if s.build.accClearOnOff then 0 else s.count } := by
  have hc : ¬ (clampApplies s && s.build.clampWriteback) = true := by
    rw [Bool.and_eq_true, clampApplies_iff]; omega
  rw [edgeEvent, if_pos ((edgeAccepted_iff s).2 h), clampStep, if_neg hc]
  cases hb : s.build.accClearOnOff <;>
    simp [acceptEdge, powerOffEffects, flippedPower, hp, hb, allOutputsLow_eq, setPower, setLast, setAccumulator]

/-- The clamp writes `last` alone. -/
theorem clampStep_eq (s : State) : ∃ l, clampStep s = { s with last := l } := by
  unfold clampStep
  split
  · exact ⟨s.tick, rfl⟩
  · exact ⟨s.last, rfl⟩

/-- Turning off writes `out`, `sum` and `count` alone. -/
theorem powerOffEffects_eq (s : State) : ∃ o v c, powerOffEffects s = { s with out := o, sum := v, count := c } := by
  unfold powerOffEffects
  rw [allOutputsLow_eq]
  dsimp only
  split
  · exact ⟨_, _, _, rfl⟩
  · exact ⟨_, s.sum, s.count, rfl⟩

/-- An acceptance writes `last`, `power`, `out`, `sum` and `count` alone. -/
theorem acceptEdge_eq (s : State) :
    ∃ o v c, acceptEdge s = { s with last := s.tick, power := !s.power, out := o, sum := v, count := c } := by
  unfold acceptEdge
  dsimp only
  split
  · exact ⟨s.out, s.sum, s.count, rfl⟩
  · obtain ⟨o, v, c, h⟩ := powerOffEffects_eq (setPower s (flippedPower s))
    exact ⟨o, v, c, by rw [h]; rfl⟩

/-- EDGE writes `last`, `power`, `out`, `sum` and `count`, nothing else. -/
theorem edgeEvent_eq (s : State) :
    ∃ l p o v c, edgeEvent s = { s with last := l, power := p, out := o, sum := v, count := c } := by
  obtain ⟨l, hl⟩ := clampStep_eq s
  unfold edgeEvent
  rw [hl]
  split
  · obtain ⟨o, v, c, h⟩ := acceptEdge_eq { s with last := l }
    exact ⟨s.tick, !s.power, o, v, c, h⟩
  · exact ⟨l, s.power, s.out, s.sum, s.count, rfl⟩

variable (s : State)

@[simp] theorem edgeEvent_build : (edgeEvent s).build = s.build := by
  obtain ⟨l, p, o, v, c, h⟩ := edgeEvent_eq s; rw [h]
@[simp] theorem edgeEvent_tick : (edgeEvent s).tick = s.tick := by
  obtain ⟨l, p, o, v, c, h⟩ := edgeEvent_eq s; rw [h]
@[simp] theorem edgeEvent_idx : (edgeEvent s).idx = s.idx := by
  obtain ⟨l, p, o, v, c, h⟩ := edgeEvent_eq s; rw [h]
@[simp] theorem edgeEvent_swPrev : (edgeEvent s).swPrev = s.swPrev := by
  obtain ⟨l, p, o, v, c, h⟩ := edgeEvent_eq s; rw [h]
@[simp] theorem edgeEvent_inputs : (edgeEvent s).inputs = s.inputs := by
  obtain ⟨l, p, o, v, c, h⟩ := edgeEvent_eq s; rw [h]
@[simp] theorem edgeEvent_draws : (edgeEvent s).draws = s.draws := by
  obtain ⟨l, p, o, v, c, h⟩ := edgeEvent_eq s; rw [h]

theorem not_clamped_of_accepted {s : State} (h : edgeAccepted s = true) (hd : 1 ≤ s.build.debounce) :
    clampStep s = s := by
  have hc : ¬ (clampApplies s && s.build.clampWriteback) = true := by
    rw [Bool.and_eq_true, clampApplies_iff]
    have := (edgeAccepted_iff s).1 h
    omega
  rw [clampStep, if_neg hc]

/-- EDGE flips `power` exactly when it accepts (R65). -/
theorem edgeEvent_power : (edgeEvent s).power = if edgeAccepted s then !s.power else s.power := by
  obtain ⟨l, hl⟩ := clampStep_eq s
  unfold edgeEvent
  rw [hl]
  split
  · obtain ⟨o, v, c, h⟩ := acceptEdge_eq { s with last := l }
    rw [h]
  · rfl

/-- EDGE writes `last` when it accepts, or when the clamp applies and writes (R62, R65). -/
theorem edgeEvent_last :
    (edgeEvent s).last =
      if edgeAccepted s = true ∨ clampApplies s = true ∧ s.build.clampWriteback = true then s.tick else s.last := by
  unfold edgeEvent
  split <;> rename_i h
  · obtain ⟨o, v, c, ha⟩ := acceptEdge_eq (clampStep s)
    obtain ⟨l, hl⟩ := clampStep_eq s
    rw [ha, hl, if_pos (Or.inl h)]
  · unfold clampStep
    by_cases hc : (clampApplies s && s.build.clampWriteback) = true
    · rw [if_pos hc, if_pos (Or.inr (Bool.and_eq_true_iff.1 hc))]
      rfl
    · rw [if_neg hc, if_neg]
      rintro (hx | hx)
      · exact h hx
      · exact hc (Bool.and_eq_true_iff.2 hx)

/-- EDGE writes the lines exactly when it turns the power off, and then all of them low (R65). -/
theorem edgeEvent_out :
    (edgeEvent s).out = if edgeAccepted s = true ∧ s.power = true then (allOutputsLow s).out else s.out := by
  obtain ⟨l, hl⟩ := clampStep_eq s
  unfold edgeEvent
  rw [hl]
  obtain hp | hp := Bool.eq_false_or_eq_true s.power
  · split <;> rename_i h
    · cases hb : s.build.accClearOnOff <;>
        simp [acceptEdge, powerOffEffects, flippedPower, hp, hb, h, allOutputsLow_eq, setPower, setLast, setAccumulator]
    · simp [h]
  · split <;> simp [acceptEdge, flippedPower, hp]

/-- EDGE writes the accumulator only when it turns the power off in a build that clears it there (R65, R81). -/
theorem edgeEvent_accumulator :
    ((edgeEvent s).sum, (edgeEvent s).count) =
      if edgeAccepted s = true ∧ s.power = true ∧ s.build.accClearOnOff = true then (0, 0) else (s.sum, s.count) := by
  obtain ⟨l, hl⟩ := clampStep_eq s
  unfold edgeEvent
  rw [hl]
  obtain hp | hp := Bool.eq_false_or_eq_true s.power
  · split <;> rename_i h
    · cases hb : s.build.accClearOnOff <;>
        simp [acceptEdge, powerOffEffects, flippedPower, hp, hb, h, allOutputsLow_eq, setPower, setLast, setAccumulator]
    · simp [h]
  · split <;> simp [acceptEdge, flippedPower, hp]

end Edge

section Sample

theorem sampleEvent_of_off {s : State} (raw : Nat) (h : s.power = false) : sampleEvent raw s = s := by
  simp [sampleEvent, h]

theorem sampleEvent_of_partial {s : State} {raw : Nat} (h : s.power = true)
    (hc : s.count.toNat + 1 < s.build.window) :
    sampleEvent raw s = storeAccumulator s (s.sum.toNat + raw) (s.count.toNat + 1) := by
  simp [sampleEvent, h, hc]

theorem sampleEvent_of_full {s : State} {raw : Nat} (h : s.power = true)
    (hc : s.build.window ≤ s.count.toNat + 1) :
    sampleEvent raw s =
      setAccumulator (decideOutput s ((s.sum.toNat + raw) / (s.count.toNat + 1))) 0 0 := by
  have : ¬ s.count.toNat + 1 < s.build.window := by omega
  simp [sampleEvent, h, this]

/-- The decision writes `out[0]` alone (R79). -/
theorem decideOutput_eq (s : State) (avg : Nat) :
    decideOutput s avg =
      { s with out := { s.out with
        l0 := if s.build.high < avg then true else if avg < s.build.low then false else s.out.l0 } } := by
  unfold decideOutput
  split
  · rfl
  · split <;> rfl

/-- SAMPLE writes `sum`, `count`, `out[0]` and the draw count, nothing else. -/
theorem sampleEvent_eq (raw : Nat) (s : State) :
    ∃ v c b d, sampleEvent raw s = { s with sum := v, count := c, out := { s.out with l0 := b }, draws := d } := by
  obtain hp | hp := Bool.eq_false_or_eq_true s.power
  · by_cases hc : s.count.toNat + 1 < s.build.window
    · obtain ⟨v, d, h⟩ := storeAccumulator_eq s (s.sum.toNat + raw) (s.count.toNat + 1)
      exact ⟨v, _, s.out.l0, d, (sampleEvent_of_partial hp hc).trans h⟩
    · have h := sampleEvent_of_full (raw := raw) hp (Nat.le_of_not_lt hc)
      rw [decideOutput_eq] at h
      exact ⟨0, 0, _, s.draws, h⟩
  · exact ⟨s.sum, s.count, s.out.l0, s.draws, sampleEvent_of_off raw hp⟩

variable (raw : Nat) (s : State)

@[simp] theorem sampleEvent_build : (sampleEvent raw s).build = s.build := by
  obtain ⟨v, c, b, d, h⟩ := sampleEvent_eq raw s; rw [h]
@[simp] theorem sampleEvent_tick : (sampleEvent raw s).tick = s.tick := by
  obtain ⟨v, c, b, d, h⟩ := sampleEvent_eq raw s; rw [h]
@[simp] theorem sampleEvent_last : (sampleEvent raw s).last = s.last := by
  obtain ⟨v, c, b, d, h⟩ := sampleEvent_eq raw s; rw [h]
@[simp] theorem sampleEvent_power : (sampleEvent raw s).power = s.power := by
  obtain ⟨v, c, b, d, h⟩ := sampleEvent_eq raw s; rw [h]
@[simp] theorem sampleEvent_idx : (sampleEvent raw s).idx = s.idx := by
  obtain ⟨v, c, b, d, h⟩ := sampleEvent_eq raw s; rw [h]
@[simp] theorem sampleEvent_swPrev : (sampleEvent raw s).swPrev = s.swPrev := by
  obtain ⟨v, c, b, d, h⟩ := sampleEvent_eq raw s; rw [h]
@[simp] theorem sampleEvent_inputs : (sampleEvent raw s).inputs = s.inputs := by
  obtain ⟨v, c, b, d, h⟩ := sampleEvent_eq raw s; rw [h]

end Sample

end Sys2Proof.Machine
end

