-- ==== Sys2Proof/Laws/Exec.lean ====
section
/-! SUPPORT. What exec, step and runOps can answer: said once, so that a later proof unfolds none of them. -/

namespace Sys2Proof.Machine

/-- What an operation does to the state where it is not refused. -/
def effect : Instr → State → State
  | .reset => resetRegisters
  | .idle => fun s => s
  | .sample raw => sampleEvent raw
  | .tick => tickEvent
  | .tickSample raw => fun s => sampleEvent raw (tickEvent s)
  | .edge => edgeEvent
  | .edgeSample raw => fun s => sampleEvent raw (edgeEvent s)
  | .edgeTick => fun s => tickEvent (edgeEvent s)
  | .edgeTickSample raw => fun s => sampleEvent raw (tickEvent (edgeEvent s))

/-- When the operation is applied: a specified build, and for a sample event variant A and an operand in range. -/
def applies (i : Instr) (s : State) : Prop :=
  buildValid s.build = true ∧ ∀ raw, i.rawOperand = some raw → s.build.variant = .a ∧ raw ≤ s.build.rawMax

/-- exec answers a next state exactly when the operation applies, and then it is the operation's effect. -/
theorem exec_next_iff {i : Instr} {s t : State} : exec i s = .next t ↔ applies i s ∧ t = effect i s := by
  cases i <;>
    simp [exec, execReset, execIdle, execSample, execTick, execTickSample, execEdge, execEdgeSample, execEdgeTick,
      execEdgeTickSample, onBuild_next, onSamplePort_next, applies, effect, cycle, Instr.rawOperand, and_assoc]

theorem exec_of_applies {i : Instr} {s : State} (h : applies i s) : exec i s = .next (effect i s) :=
  exec_next_iff.2 ⟨h, rfl⟩

/-- No operation changes the build. -/
theorem effect_build (i : Instr) (s : State) : (effect i s).build = s.build := by
  cases i <;> simp [effect, resetRegisters]

/-- Whether an operation applies depends on the build alone. -/
theorem applies_congr {i : Instr} {s t : State} (h : t.build = s.build) : applies i t ↔ applies i s := by
  simp [applies, h]

/-- exec never answers a fault: there is none (R110). -/
theorem exec_ne_fault (i : Instr) (s : State) (r : Fault) : exec i s ≠ .fault r := nomatch r

theorem runOps_nil (s : State) : runOps [] s = .next s := rfl

/-- A run's first operation. -/
theorem runOps_cons_next {i : Instr} {is : List Instr} {s t : State} :
    runOps (i :: is) s = .next t ↔ ∃ u, exec i s = .next u ∧ runOps is u = .next t := by
  cases h : exec i s <;> simp [runOps, h]

theorem runOps_cons_of_next {i : Instr} {is : List Instr} {s u : State} (h : exec i s = .next u) :
    runOps (i :: is) s = runOps is u := by
  simp [runOps, h]

/-- Runs compose. -/
theorem runOps_append_next {is js : List Instr} {s t : State} :
    runOps (is ++ js) s = .next t ↔ ∃ u, runOps is s = .next u ∧ runOps js u = .next t := by
  induction is generalizing s with
  | nil => simp [runOps_nil]
  | cons i is ih =>
    simp only [List.cons_append, runOps_cons_next, ih]
    constructor
    · rintro ⟨u, hu, v, hv, ht⟩
      exact ⟨v, ⟨u, hu, hv⟩, ht⟩
    · rintro ⟨v, ⟨u, hu, hv⟩, ht⟩
      exact ⟨u, hu, v, hv, ht⟩

theorem takePins_build (s : State) : (takePins s).build = s.build := rfl

theorem step_eq (s : State) : step s = exec (decode (fetchWord s)) (takePins s) := rfl

theorem core_run_zero (s : State) : Host.Core.run core 0 s = .next s := rfl

theorem core_run_succ_of_next {k : Nat} {s u : State} (h : step s = .next u) :
    Host.Core.run core (k + 1) s = Host.Core.run core k u := by
  have hc : core.step s = .next u := h
  simp only [Host.Core.run, hc]

theorem core_run_succ_of_refused {k : Nat} {s : State} {r : Refusal} (h : step s = .refused r) :
    Host.Core.run core (k + 1) s = .refused r := by
  have hc : core.step s = .refused r := h
  simp only [Host.Core.run, hc]

/-- A property that every operation's effect keeps is kept by every run. -/
theorem runOps_keeps {P : State → Prop} {is : List Instr}
    (keep : ∀ i ∈ is, ∀ s, P s → applies i s → P (effect i s)) {s t : State} (hs : P s)
    (h : runOps is s = .next t) : P t := by
  induction is generalizing s with
  | nil =>
    cases h
    exact hs
  | cons i is ih =>
    obtain ⟨u, hu, ht⟩ := runOps_cons_next.1 h
    obtain ⟨ha, rfl⟩ := exec_next_iff.1 hu
    exact ih (fun j hj => keep j (List.mem_cons_of_mem _ hj)) (keep i List.mem_cons_self s hs ha) ht

end Sys2Proof.Machine
end

