-- ==== Sys2Proof/Laws/PerInstr.lean ====
section
/-! SUPPORT. Per-instruction statements: an operation's canonical word lies in its own row of the opcode map
(30_encoding.md R43). -/

namespace Sys2Proof.Laws.EncodeFitsRow

/-- Some row of the map has the operation's mnemonic and takes in its canonical word. -/
def Statement (i : Instr) : Prop :=
  ∃ r ∈ opcodeRows, r.mnemonic = mnemonicOf i ∧ r.covers (encode i) = true

/-- Masking a packed word with the four event bits drops the data. -/
theorem mask_pack (a b c d : Bool) (x : RawWord) :
    packWord a b c d x &&& 0x3C00#14 = packWord a b c d 0 &&& 0x3C00#14 := by
  ext k hk
  simp only [packWord, BitVec.getElem_and, BitVec.getElem_append]
  by_cases h : k < 10
  · have hm : (0x3C00#14 : CycleWord)[k] = false := by
      have : ∀ j : Fin 10, (0x3C00#14 : CycleWord).getLsbD j.val = false := by decide
      exact this ⟨k, h⟩
    simp [hm]
  · simp [h]

theorem reset : Statement .reset := ⟨⟨"RESET", 0x2000#14, 0x2000#14⟩, by decide, rfl, by decide⟩

theorem idle : Statement .idle := ⟨⟨"IDLE", 0x3C00#14, 0x0000#14⟩, by decide, rfl, by decide⟩

theorem sample (raw : Nat) : Statement (.sample raw) := by
  refine ⟨⟨"SAMPLE", 0x3C00#14, 0x0400#14⟩, by decide, rfl, ?_⟩
  simp only [OpcodeRow.covers, encode, mask_pack]
  decide

theorem tick : Statement .tick := ⟨⟨"TICK", 0x3C00#14, 0x0800#14⟩, by decide, rfl, by decide⟩

theorem tickSample (raw : Nat) : Statement (.tickSample raw) := by
  refine ⟨⟨"TICK+SAMPLE", 0x3C00#14, 0x0C00#14⟩, by decide, rfl, ?_⟩
  simp only [OpcodeRow.covers, encode, mask_pack]
  decide

theorem edge : Statement .edge := ⟨⟨"EDGE", 0x3C00#14, 0x1000#14⟩, by decide, rfl, by decide⟩

theorem edgeSample (raw : Nat) : Statement (.edgeSample raw) := by
  refine ⟨⟨"EDGE+SAMPLE", 0x3C00#14, 0x1400#14⟩, by decide, rfl, ?_⟩
  simp only [OpcodeRow.covers, encode, mask_pack]
  decide

theorem edgeTick : Statement .edgeTick := ⟨⟨"EDGE+TICK", 0x3C00#14, 0x1800#14⟩, by decide, rfl, by decide⟩

theorem edgeTickSample (raw : Nat) : Statement (.edgeTickSample raw) := by
  refine ⟨⟨"EDGE+TICK+SAMPLE", 0x3C00#14, 0x1C00#14⟩, by decide, rfl, ?_⟩
  simp only [OpcodeRow.covers, encode, mask_pack]
  decide

end Sys2Proof.Laws.EncodeFitsRow
end

