-- ==== Sys2Proof/Tests/Slice0.lean ====
section
/-! SUPPORT. Tests: the well-formedness checks, decoding of words written out from the spec's encoding table, single
steps from spec/95_test_vectors.md, and for every obligation with hypotheses a state and operands that meet them. -/

namespace Sys2Proof.Machine

/-- Variant A: `tick last power sum count out`, as 95_test_vectors.md part 0 writes a state. -/
def stA (tick last : Nat) (power : Bool) (sum count : Nat) (out : Bool) : State :=
  { State.resetOf Build.hardwareA with
    tick := BitVec.ofNat 8 tick, last := BitVec.ofNat 8 last, power := power,
    sum := BitVec.ofNat 12 sum, count := BitVec.ofNat 2 count, out := ⟨out, false, false⟩ }

/-- Variant B: `tick last power idx out`, the lines written 2, 1, 0. -/
def stB (tick last : Nat) (power : Bool) (idx : RotIndex) (l2 l1 l0 : Bool) : State :=
  { State.resetOf Build.hardwareB with
    tick := BitVec.ofNat 8 tick, last := BitVec.ofNat 8 last, power := power, idx := idx, out := ⟨l0, l1, l2⟩ }

/-- The result is the next state `t`. -/
def answers (r : Result) (t : State) : Bool :=
  match r with
  | .next u => decide (u = t)
  | .fault _ => false
  | .refused _ => false

/-- The result is the refusal `q`. -/
def refuses (r : Result) (q : Refusal) : Bool :=
  match r with
  | .next _ => false
  | .fault _ => false
  | .refused p => decide (p = q)

/-- A build with other parameters than this hardware's. -/
def buildWith (debounce : Nat) (clampWriteback accClear : Bool) : Build :=
  { Build.hardwareB with debounce := debounce, clampWriteback := clampWriteback, accClearOnOff := accClear }

/-! ## Well-formedness -/

theorem test_wellFormed_refuses_operand_1024 : (Instr.sample 1024).wellFormed = false := by decide
theorem test_wellFormed_accepts_operand_1023 : (Instr.edgeTickSample 1023).wellFormed = true := by decide
theorem test_existsIn_refuses_sample_in_b : (Instr.tickSample 0).existsIn .b = false := by decide
theorem test_existsIn_accepts_sample_in_a : (Instr.tickSample 0).existsIn .a = true := by decide
theorem test_buildValid_refuses_debounce_0 : buildValid { Build.hardwareA with debounce := 0 } = false := by decide
theorem test_buildValid_refuses_low_above_high : buildValid { Build.hardwareA with low := 301 } = false := by decide
theorem test_buildValid_refuses_window_0 : buildValid { Build.hardwareA with window := 0 } = false := by decide
theorem test_buildValid_refuses_window_5 : buildValid { Build.hardwareA with window := 5, rawMax := 1 } = false := by decide
theorem test_buildValid_refuses_raw_1024 : buildValid { Build.hardwareA with rawMax := 1024, window := 1 } = false := by decide
theorem test_buildValid_refuses_no_permutation :
    buildValid { Build.hardwareB with lead := ⟨.l0, .l0, .l1⟩ } = false := by decide
theorem test_buildValid_refuses_trail_no_permutation :
    buildValid { Build.hardwareB with trail := ⟨.l1, .l0, .l0⟩ } = false := by decide
theorem test_buildValid_refuses_trail_is_lead :
    buildValid { Build.hardwareB with trail := ⟨.l0, .l2, .l1⟩ } = false := by decide

/-! ## Decoding: R43's bits written out, rst edge tick sample data; R50 and 95_test_vectors.md part 6 -/

theorem test_decode_reset : decode 0b1_0_0_0_0000000000#14 = .reset := by decide
theorem test_decode_reset_overrides : decode 0b1_1_1_1_1111111111#14 = .reset := by decide
theorem test_decode_idle : decode 0b0_0_0_0_0000000000#14 = .idle := by decide
theorem test_decode_sample : decode 0b0_0_0_1_0101011110#14 = .sample 350 := by decide
theorem test_decode_tick : decode 0b0_0_1_0_0000000000#14 = .tick := by decide
theorem test_decode_tickSample : decode 0b0_0_1_1_0100101100#14 = .tickSample 300 := by decide
theorem test_decode_edge : decode 0b0_1_0_0_0000000000#14 = .edge := by decide
theorem test_decode_edgeSample : decode 0b0_1_0_1_0110010000#14 = .edgeSample 400 := by decide
theorem test_decode_edgeTick : decode 0b0_1_1_0_0000000000#14 = .edgeTick := by decide
theorem test_decode_edgeTickSample : decode 0b0_1_1_1_1111111111#14 = .edgeTickSample 1023 := by decide
theorem test_decode_msb_of_data : decode 0b0_0_0_1_1000000000#14 = .sample 512 := by decide
theorem test_decode_number_rejects : decodeTableWord 16 0x4000 = none := by decide
theorem test_decode_table_word : decodeTableWord 16 0x0D2C = some (.tickSample 300) := by decide
theorem test_decode_table_word_14 : decodeTableWord 14 0x3000 = some .reset := by decide

/-! ## Single steps: the vectors of 95_test_vectors.md by their ids -/

theorem test_V_TCK_02 : answers (exec .tick (stA 255 3 true 10 1 true)) (stA 0 3 true 10 1 true) := by decide
theorem test_V_TCK_07 :
    answers (exec .tick (stB 255 250 true .i2 false true false)) (stB 0 250 true .i0 true false false) := by decide
theorem test_V_DEB_02 : answers (exec .edge (stA 1 0 false 0 0 false)) (stA 1 1 true 0 0 false) := by decide
theorem test_V_DEB_05c : answers (exec .edge (stA 0 255 true 0 0 true)) (stA 0 0 true 0 0 true) := by decide
theorem test_V_DEB_09 : answers (exec .edge (stA 20 3 true 700 2 true)) (stA 20 20 false 700 2 false) := by decide
theorem test_V_DEB_21 :
    answers (exec .edge (stB 1 0 false .i0 false false false)) (stB 1 0 false .i0 false false false) := by decide
theorem test_V_DEB_25 :
    answers (exec .edge (stB 12 10 true .i2 false true false)) (stB 12 12 false .i2 false false false) := by decide
theorem test_V_HYS_01 : answers (exec (.sample 300) (stA 0 0 true 903 3 false)) (stA 0 0 true 0 0 false) := by decide
theorem test_V_HYS_02 : answers (exec (.sample 301) (stA 0 0 true 903 3 false)) (stA 0 0 true 0 0 true) := by decide
theorem test_V_HYS_04 : answers (exec (.sample 199) (stA 0 0 true 600 3 true)) (stA 0 0 true 0 0 false) := by decide
theorem test_V_HYS_05 : answers (exec (.sample 200) (stA 0 0 true 600 3 true)) (stA 0 0 true 0 0 true) := by decide
theorem test_V_HYS_10c : answers (exec (.sample 1023) (stA 0 0 true 2046 2 false)) (stA 0 0 true 3069 3 false) := by decide
theorem test_V_HYS_10e :
    answers (exec (.sample 1023) (stA 0 0 false 1050 3 false)) (stA 0 0 false 1050 3 false) := by decide
theorem test_V_ROT_02 :
    answers (exec .tick (stB 3 2 true .i1 false false true)) (stB 4 2 true .i2 false true false) := by decide
theorem test_V_SYS_01 :
    answers (exec .reset (stB 200 190 true .i2 true false false)) (stB 0 0 false .i0 false false false) := by decide
theorem test_V_SYS_04 : answers (exec .idle (stA 9 4 true 903 3 true)) (stA 9 4 true 903 3 true) := by decide
theorem test_V_SYS_07 :
    answers (exec .edgeTick (stB 1 0 false .i0 false false false)) (stB 2 0 false .i0 false false false) := by decide
theorem test_V_SYS_08 :
    answers (exec .edgeTick (stB 2 0 false .i0 false false false)) (stB 3 2 true .i1 false false true) := by decide
theorem test_V_SYS_10 :
    answers (exec (.edgeSample 400) (stA 1 0 false 0 0 false)) (stA 1 1 true 400 1 false) := by decide
theorem test_V_SYS_11 :
    answers (exec (.edgeSample 301) (stA 2 1 true 903 3 false)) (stA 2 2 false 903 3 false) := by decide
theorem test_V_SYS_12 :
    answers (exec (.tickSample 300) (stA 255 255 true 0 0 false)) (stA 0 255 true 300 1 false) := by decide
theorem test_V_SYS_13 :
    answers (exec (.edgeTickSample 1023) (stA 3 1 false 3069 3 false)) (stA 4 3 true 0 0 true) := by decide
theorem test_V_SYS_14 : refuses (exec (.edgeSample 0) (stB 5 2 false .i0 false false false)) .noSamplePort := by decide

/-- 93_implementation_defined.md U8: an operand above `RAW_MAX` is refused. -/
theorem test_operand_above_rawMax_is_refused :
    refuses (exec (.tickSample 1024) (stA 0 0 true 0 0 false)) .rawOutOfRange := by decide

/-- 93_implementation_defined.md U10: no build, no operation. -/
theorem test_invalid_build_is_refused :
    refuses (exec .idle (State.resetOf { Build.hardwareA with debounce := 0 })) .invalidBuild := by decide

/-- V-DEB-12 step 2, the column `CLAMP_WRITEBACK = 0`: the clamped EDGE writes nothing. -/
theorem test_V_DEB_12_without_writeback :
    let s := { stB 1 254 true .i0 true false false with build := buildWith 2 false false }
    answers (exec .edge s) s := by decide

/-- V-HYS-12 step 6: with `ACC_CLEAR_ON_OFF = 1` the power-off clears the accumulator. -/
theorem test_V_HYS_12_step_6 :
    let b := { Build.hardwareA with accClearOnOff := true }
    answers (exec .edge { stA 2 1 true 800 2 false with build := b }) { stA 2 2 false 0 0 false with build := b } := by
  decide

/-- V-ROT-07, the alternative tables: the third TICK goes from `011` to `110`. -/
theorem test_V_ROT_07_alternative :
    let b := { Build.hardwareB with trail := ⟨.l1, .l2, .l0⟩ }
    answers (exec .tick { stB 2 0 true .i2 false true true with build := b })
      { stB 3 0 true .i0 true true false with build := b } := by decide

/-! ## The pin level: P6 of 95_test_vectors.md and V-EDG -/

/-- P6 cycle 7: press bounce and tick in one cycle. -/
theorem test_P6_cycle_7 :
    let s := { stB 3 2 true .i1 false false true with swPrev := true, inputs := [⟨false, true, false, false, 0⟩] }
    fetchWord s = 0x1800#14 ∧ answers (step s) (stB 4 2 true .i2 false true false) = true := by decide

/-- P6 cycle 11: `rst` cancels the tick of its cycle; the word is 0x3800. -/
theorem test_P6_cycle_11 :
    let s := { stB 6 5 false .i0 false false false with swPrev := true, inputs := [⟨true, true, false, false, 0⟩] }
    fetchWord s = 0x3800#14 ∧ answers (step s) (stB 0 0 false .i0 false false false) = true := by decide

/-- V-EDG-02 and V-EDG-04 for the three values of `EDGE_SEL`. -/
theorem test_V_EDG :
    edgeDetect .both true false = true ∧ edgeDetect .both false true = true ∧ edgeDetect .both true true = false ∧
    edgeDetect .rise true false = true ∧ edgeDetect .rise false true = false ∧
    edgeDetect .fall true false = false ∧ edgeDetect .fall false true = true := by decide

theorem test_withFetchWord_runs_sample :
    answers (step (State.reset.withFetchWord 16 0x055E)) State.reset = true ∧
    fetchWord (State.reset.withFetchWord 16 0x055E) = 0x055E#14 := by decide

theorem test_withFetchWord_runs_edge_tick :
    answers (step (State.reset.withFetchWord 16 0x1800)) { stA 1 0 false 0 0 false with swPrev := true } = true := by decide

theorem test_reset_steps_idle : answers (step State.reset) State.reset := by decide

/-! ## Witnesses: states and operands that meet the hypotheses of the obligations together. A clause of an obligation
with its own hypotheses has a conjunct, at a boundary value of its range. -/

theorem witness_valid_builds : buildValid Build.hardwareA = true ∧ buildValid Build.hardwareB = true := by decide

/-- ResetReturnsEveryRegisterToItsResetValue, ResetStateHoldsTheResetValues. -/
theorem witness_reset : buildValid (stB 200 190 true .i2 true false false).build = true ∧
    (0x3FFF#14 : CycleWord).getLsbD 13 = true := by decide

/-- IdleWritesNothing. -/
theorem witness_idle : let s := stA 1 0 true 0 0 false
    buildValid s.build = true ∧ s.build.edgeSel = .both ∧ decode (fetchWord s) = .idle := by decide

/-- TickCountsAndRotates: variant A, variant B off, variant B on at the wrap. -/
theorem witness_tick :
    (let s := stA 255 3 true 10 1 true; buildValid s.build = true ∧ (s.build.variant = .a ∨ s.power = false)) ∧
    (let s := stB 9 0 false .i2 false false false; buildValid s.build = true ∧ s.build.variant = .b ∧ s.power = false) ∧
    (let s := stB 255 250 true .i2 false true false; buildValid s.build = true ∧ s.build.variant = .b ∧ s.power = true) := by
  decide

/-- TickCounterIsModulo256. -/
theorem witness_tick_next : exec .tick (stA 255 3 true 10 1 true) = .next (stA 0 3 true 10 1 true) := rfl

/-- TickCounterIsFreeRunning, PowerFlipsOnlyOnAcceptedEdge, LastIsWrittenOnlyByEdge, RotationIndexAdvancesOnlyWhileOn: an
operation that answers; an accepted EDGE, a clamp, RESET and a TICK. -/
theorem witness_exec_next :
    exec .edgeTick (stB 2 0 false .i0 false false false) = .next (stB 3 2 true .i1 false false true) ∧
    exec .edge (stA 0 255 true 0 0 true) = .next (stA 0 0 true 0 0 true) ∧
    exec .reset (stA 9 4 true 903 3 true) = .next (stA 0 0 false 0 0 false) ∧
    exec .tick (stB 3 2 true .i1 false false true) = .next (stB 4 2 true .i2 false true false) := ⟨rfl, rfl, rfl, rfl⟩

/-- EdgeInClosedForm: accepted at exactly `DEBOUNCE`, discarded one below, clamped. -/
theorem witness_edge_closed_form :
    (let s := stB 2 0 true .i0 false false true
     buildValid s.build = true ∧ s.build.debounce ≤ s.tick.toNat - min s.last.toNat s.tick.toNat) ∧
    (let s := stB 1 0 true .i0 false false true
     buildValid s.build = true ∧ s.tick.toNat - min s.last.toNat s.tick.toNat < s.build.debounce) ∧
    (let s := stB 0 254 true .i2 false true false
     buildValid s.build = true ∧ s.tick.toNat - min s.last.toNat s.tick.toNat < s.build.debounce) := by decide

/-- EdgeHasThreeOutcomes: the three ranges at their ends. -/
theorem witness_edge_outcomes :
    buildValid Build.hardwareB = true ∧ Build.hardwareB.clampWriteback = true ∧
    (let s := stB 2 0 false .i0 false false false; s.last.toNat + s.build.debounce ≤ s.tick.toNat) ∧
    (let s := stB 1 0 false .i0 false false false
     s.last.toNat ≤ s.tick.toNat ∧ s.tick.toNat < s.last.toNat + s.build.debounce) ∧
    (let s := stB 253 254 false .i0 false false false; s.tick.toNat < s.last.toNat) := by decide

/-- WrapAcceptanceWindow: an accepted distance, a clamp after a wrap followed by a further EDGE, and `L = 255`. -/
theorem witness_wrap :
    (let s := stA 10 10 true 0 0 false
     buildValid s.build = true ∧ s.last = s.tick ∧ runOps [.tick, .idle] s = .next (stA 11 10 true 0 0 false) ∧
       s.build.debounce ≤ tickTotal [.tick, .idle] % 256 ∧ tickTotal [.tick, .idle] % 256 ≤ 255 - s.last.toNat) ∧
    (let s := stA 255 255 true 0 0 false
     let u := stA 0 255 true 0 0 false
     buildValid s.build = true ∧ s.last = s.tick ∧ runOps [.tick] s = .next u ∧ u.last = s.last ∧
       256 ≤ s.last.toNat + tickTotal [.tick] % 256 ∧ s.build.clampWriteback = true ∧
       s.build.debounce ≤ 1 ∧ u.tick.toNat + 1 ≤ 255 ∧ 255 < s.last.toNat + s.build.debounce) ∧
    (let s := stA 10 10 true 0 0 false; runOps [] s = .next s ∧ tickTotal [] < s.build.debounce) :=
  ⟨⟨by decide, by decide, rfl, by decide, by decide⟩,
    ⟨by decide, by decide, rfl, by decide, by decide, by decide, by decide, by decide, by decide⟩, ⟨rfl, by decide⟩⟩

/-- BounceBurstNeverToggles: V-DEB-06. -/
theorem witness_bounce :
    let s := stB 10 10 true .i0 false false false
    let ops := [Instr.edge, .edge, .tick, .edge, .edge]
    s.last = s.tick ∧ (∀ i ∈ ops, i ≠ .reset) ∧ tickTotal ops < s.build.debounce ∧
      runOps ops s = .next (stB 11 10 true .i1 false false true) := ⟨by decide, by decide, by decide, rfl⟩

/-- EdgeTimingAliasesModulo256: 257 ticks after the EDGE that wrote `last`, in variant B (R134). -/
theorem witness_alias :
    let s := stB 5 5 true .i0 false false false
    buildValid s.build = true ∧ s.last = s.tick ∧ 257 % 256 < s.build.debounce := by decide

/-- LongBounceTrainTogglesAgain: the last tick from which the train still fits. -/
theorem witness_train :
    let s := stB 253 253 true .i0 false false false
    buildValid s.build = true ∧ s.build.debounce = 2 ∧ s.last = s.tick ∧ s.tick.toNat ≤ 253 := by decide

/-- DeadWindowAfterReset: one TICK short of the threshold in variant B. -/
theorem witness_dead_window :
    let b := Build.hardwareB
    let ops := [Instr.edge, .tick]
    buildValid b = true ∧ (∀ i ∈ ops, i ≠ .reset) ∧
      runOps ops (State.resetOf b) = .next (stB 1 0 false .i0 false false false) ∧
      tickTotal ops < b.debounce ∧ tickTotal ops + 1 = b.debounce ∧ b.debounce ≤ 255 :=
  ⟨by decide, by decide, rfl, by decide, by decide, by decide⟩

/-- UnwrittenClampLocksTheSwitch: `last = 254` with `DEBOUNCE = 2`, and the two readings of one clamped EDGE. -/
theorem witness_lock :
    let s := { stB 1 254 true .i0 true false false with build := buildWith 2 false false }
    let t := { stB 2 254 true .i1 false false true with build := buildWith 2 false false }
    buildValid s.build = true ∧ s.build.clampWriteback = false ∧ s.tick.toNat < s.last.toNat + s.build.debounce ∧
      255 < s.last.toNat + s.build.debounce ∧ runOps [.edge, .tick, .edge] s = .next t ∧
      exec .edge { s with build := { s.build with clampWriteback := true } } =
        .next { stB 1 1 true .i0 true false false with build := buildWith 2 true false } ∧
      exec .edge { s with build := { s.build with clampWriteback := false } } = .next s ∧
      s.tick.toNat < s.last.toNat := ⟨by decide, by decide, by decide, by decide, rfl, rfl, rfl, by decide⟩

/-- TurningOnIsDarkAndOffIsImmediate, PressAndReleaseRestorePower, PowerOffKeepsOrClearsTheAccumulator. -/
theorem witness_accepted :
    (let s := stB 2 0 false .i0 false false false
     buildValid s.build = true ∧ s.last.toNat + s.build.debounce ≤ s.tick.toNat ∧ s.power = false ∧
       (∀ level ∈ outPort s, level = false) ∧ s.build.debounce ≤ 253 ∧ s.tick.toNat + 253 ≤ 255) ∧
    (let s := stA 20 19 true 700 2 true
     buildValid s.build = true ∧ s.last.toNat + s.build.debounce ≤ s.tick.toNat ∧ s.power = true ∧
       s.build.accClearOnOff = false) ∧
    (let s := { stA 20 19 true 700 2 true with build := { Build.hardwareA with accClearOnOff := true } }
     buildValid s.build = true ∧ s.last.toNat + s.build.debounce ≤ s.tick.toNat ∧ s.power = true ∧
       s.build.accClearOnOff = true) := by decide

/-- SampleWhileOffChangesNothing. -/
theorem witness_sample_off :
    let s := stA 0 0 false 1050 3 false
    buildValid s.build = true ∧ s.build.variant = .a ∧ 1023 ≤ s.build.rawMax ∧ s.power = false := by decide

/-- SampleAccumulatesThenDecides: the third sample and the fourth of a window of largest samples. -/
theorem witness_sample_on :
    (let s := stA 0 0 true 2046 2 false
     buildValid s.build = true ∧ s.build.variant = .a ∧ 1023 ≤ s.build.rawMax ∧ s.power = true ∧
       s.count.toNat + 1 ≤ s.build.window ∧ s.sum.toNat ≤ s.count.toNat * s.build.rawMax ∧
       s.count.toNat + 1 < s.build.window) ∧
    (let s := stA 0 0 true 3069 3 false
     buildValid s.build = true ∧ s.build.variant = .a ∧ 1023 ≤ s.build.rawMax ∧ s.power = true ∧
       s.sum.toNat ≤ s.count.toNat * s.build.rawMax ∧ s.count.toNat + 1 = s.build.window) := by decide

/-- SumThatDoesNotFitIsFree: the smallest sum that does not fit, in a state no run reaches. -/
theorem witness_free_sum :
    let s := stA 0 0 true 4095 0 false
    buildValid s.build = true ∧ s.build.variant = .a ∧ 1 ≤ s.build.rawMax ∧ s.power = true ∧
      s.count.toNat + 1 < s.build.window ∧ 4096 ≤ s.sum.toNat + 1 := by decide

/-- WindowDecisionBySum: sums 1204, 799, 800 and 1203 (V-HYS-01 to 05). -/
theorem witness_boundaries :
    (let s := stA 0 0 true 903 3 false
     s.build = Build.hardwareA ∧ s.power = true ∧ s.count.toNat = 3 ∧ s.count.toNat + 1 ≤ s.build.window ∧
       s.sum.toNat ≤ s.count.toNat * s.build.rawMax ∧ 1204 ≤ s.sum.toNat + 301 ∧ s.sum.toNat + 300 ≤ 1203 ∧
       800 ≤ s.sum.toNat + 300) ∧
    (let s := stA 0 0 true 600 3 true
     s.build = Build.hardwareA ∧ s.power = true ∧ s.count.toNat = 3 ∧ s.count.toNat + 1 ≤ s.build.window ∧
       s.sum.toNat ≤ s.count.toNat * s.build.rawMax ∧ s.sum.toNat + 199 ≤ 799 ∧ 800 ≤ s.sum.toNat + 200 ∧
       s.sum.toNat + 200 ≤ 1203) := by decide

/-- WindowOfSamplesDecidesOnItsAverage, HysteresisBandHoldsTheOutput: windows at both ends of the band. -/
theorem witness_windows :
    let s := stA 0 0 true 0 0 true
    let windows := [[300, 301, 301, 301], [200, 200, 200, 200]]
    buildValid s.build = true ∧ s.build.variant = .a ∧ s.power = true ∧ s.sum = 0 ∧ s.count = 0 ∧
      ∀ raws ∈ windows, raws.length = s.build.window ∧ (∀ r ∈ raws, r ≤ s.build.rawMax) ∧
        s.build.low ≤ raws.sum / s.build.window ∧ raws.sum / s.build.window ≤ s.build.high := by decide

/-- LampChangesOnlyForItsCauses: the lamp rises on a window (V-HYS-02), falls on a window, and falls on an EDGE. -/
theorem witness_lamp :
    (let s := stA 0 0 true 903 3 false
     let t := stA 0 0 true 0 0 true
     s.build.variant = .a ∧ s.count.toNat + 1 ≤ s.build.window ∧ s.sum.toNat ≤ s.count.toNat * s.build.rawMax ∧
       exec (.sample 301) s = .next t ∧ s.out.l0 = false ∧ t.out.l0 = true) ∧
    (let s := stA 0 0 true 600 3 true
     let t := stA 0 0 true 0 0 false
     s.build.variant = .a ∧ s.count.toNat + 1 ≤ s.build.window ∧ s.sum.toNat ≤ s.count.toNat * s.build.rawMax ∧
       exec (.sample 199) s = .next t ∧ s.out.l0 = true ∧ t.out.l0 = false) ∧
    (let s := stA 6 5 true 0 0 true
     let t := stA 6 6 false 0 0 false
     s.build.variant = .a ∧ s.count.toNat + 1 ≤ s.build.window ∧ s.sum.toNat ≤ s.count.toNat * s.build.rawMax ∧
       exec .edge s = .next t ∧ s.out.l0 = true ∧ t.out.l0 = false) :=
  ⟨⟨by decide, by decide, by decide, rfl, by decide, by decide⟩,
    ⟨by decide, by decide, by decide, rfl, by decide, by decide⟩,
    ⟨by decide, by decide, by decide, rfl, by decide, by decide⟩⟩

/-- StaleWindowIsCompletedAfterPowerOn, at the last tick without a wrap. -/
theorem witness_stale :
    let s := stA 254 253 true 1200 3 false
    buildValid s.build = true ∧ s.build.variant = .a ∧ s.build.accClearOnOff = false ∧ s.power = true ∧
      s.count.toNat + 1 ≤ s.build.window ∧ s.sum.toNat ≤ s.count.toNat * s.build.rawMax ∧
      s.count.toNat + 1 = s.build.window ∧ 1023 ≤ s.build.rawMax ∧
      s.last.toNat + s.build.debounce ≤ s.tick.toNat ∧ s.tick.toNat + s.build.debounce ≤ 255 := by decide

/-- ThreeTicksMakeOneRotation, OneLineRotates, AlternativeTablesLightTwoLines. -/
theorem witness_rotation :
    (let s := stB 0 0 true .i0 false false false
     buildValid s.build = true ∧ s.build.variant = .b ∧ s.power = true ∧ s.idx = .i0) ∧
    (let s := stB 2 0 false .i1 false false false
     buildValid s.build = true ∧ s.build.variant = .b ∧ s.build.lead = ⟨.l0, .l1, .l2⟩ ∧
       s.build.trail = ⟨.l2, .l0, .l1⟩ ∧ s.power = false ∧ (∀ level ∈ outPort s, level = false) ∧
       s.last.toNat + s.build.debounce ≤ s.tick.toNat) ∧
    (let s := { stB 0 0 true .i0 false false false with
        build := { Build.hardwareB with trail := ⟨.l1, .l2, .l0⟩ } }
     buildValid s.build = true ∧ s.build.variant = .b ∧ s.build.lead = ⟨.l0, .l1, .l2⟩ ∧
       s.build.trail = ⟨.l1, .l2, .l0⟩ ∧ s.power = true ∧ s.out = ⟨false, false, false⟩) := by decide

/-- CompoundsComplete, OperationIsItsEventsInOrder. -/
theorem witness_compounds :
    let s := stA 3 1 false 3069 3 false
    buildValid s.build = true ∧ s.build.variant = .a ∧ 1023 ≤ s.build.rawMax ∧ (0x1FFF#14 : CycleWord).getLsbD 13 = false := by decide

/-- SimultaneousEventsAreOrderSensitive: one below the threshold at the last tick before the wrap, and a window that the
sample completes while the EDGE turns the power off. -/
theorem witness_order :
    (let s := stB 254 253 false .i0 false false false
     buildValid s.build = true ∧ s.tick.toNat + 1 = s.last.toNat + s.build.debounce ∧ s.tick.toNat < 255) ∧
    (let s := stA 2 1 true 903 3 false
     buildValid s.build = true ∧ s.build.variant = .a ∧ s.build.accClearOnOff = false ∧ 301 ≤ s.build.rawMax ∧
       s.power = true ∧ s.count.toNat + 1 = s.build.window ∧
       s.last.toNat + s.build.debounce ≤ s.tick.toNat) := by decide

/-- OnlyVariantBRefusesSampleWords, EveryCycleCompletes. -/
theorem witness_refusal :
    (let s := stB 0 0 false .i0 false false false
     buildValid s.build = true ∧ s.build.variant = .b ∧
       (0x0400#14 : CycleWord).getLsbD 13 = false ∧ (0x0400#14 : CycleWord).getLsbD 10 = true ∧
       (0x2400#14 : CycleWord).getLsbD 13 = true ∧ (0x03FF#14 : CycleWord).getLsbD 10 = false ∧
       (currentPins s).sampleStb = false) ∧
    (let s := stA 0 0 false 0 0 false
     buildValid s.build = true ∧ s.build.variant = .a ∧ s.build.rawMax = 1023) := by decide

/-- OutOfRangeSampleIsRefused, at the first operand out of range. -/
theorem witness_out_of_range :
    let s := stA 0 0 true 0 0 false
    buildValid s.build = true ∧ s.build.variant = .a ∧ (Instr.edgeSample 1024).rawOperand = some 1024 ∧
      s.build.rawMax < 1024 := by decide

/-- InvalidBuildIsRefused. -/
theorem witness_invalid_build : buildValid { Build.hardwareA with debounce := 0 } = false := by decide

/-- DecodeEncodeRoundTrip, EveryWordMatchesExactlyOneRow, IgnoredBitsDoNotMatter. -/
theorem witness_encoding :
    (Instr.edgeTickSample 1023).wellFormed = true ∧ (decode 0x1FFF#14).rawOperand = some 1023 ∧
    (0x3FFF#14 : CycleWord).getLsbD 13 = true ∧ (0x2000#14 : CycleWord).getLsbD 13 = true ∧
    (0x0955#14 : CycleWord).getLsbD 10 = false ∧ (0x0955#14 : CycleWord) >>> 10 = (0x0800#14 : CycleWord) >>> 10 ∧
    Instr.edgeTick.rawOperand = none := by decide

/-- StepRunsTheDecodedOperation, EdgeDetectorRaisesTheChosenTransitions, ResetPinAppliesResetOnly,
SwitchIdleLevelDoesNotMatter, PinRunIsItsEventRun. -/
theorem witness_pins :
    (let p : Pins := ⟨false, true, true, false, 0⟩
     let s := { stB 3 2 true .i1 false false true with inputs := [p] }
     buildValid s.build = true ∧ s.inputs = [p] ∧ decode (fetchWord s) = .edgeTick ∧
       Instr.edgeTick.wellFormed = true ∧
       step s = .next { stB 4 2 true .i2 false true false with swPrev := true }) ∧
    (let p : Pins := ⟨true, true, true, false, 0⟩
     let s := { stB 3 2 true .i1 false false true with inputs := [p] }
     buildValid s.build = true ∧ s.inputs = [p] ∧ p.rst = true ∧
       step s = .next (stB 0 0 false .i0 false false false)) ∧
    (let p : Pins := ⟨false, false, true, false, 0⟩
     buildValid Build.hardwareB = true ∧ p.rst = false ∧ p.tickStb = false ∧ p.sampleStb = false) :=
  ⟨⟨by decide, rfl, by decide, by decide, rfl⟩, ⟨by decide, rfl, rfl, rfl⟩, by decide⟩

/-- CycleWithoutListedPinsIsIdle. -/
theorem witness_no_pins : let s := stA 9 4 true 903 3 true
    buildValid s.build = true ∧ s.inputs = [] := by decide

/-- EventRunHasAPinRun. -/
theorem witness_event_run : ∀ i ∈ [Instr.edge, .edge, .edgeTickSample 1023, .reset, .edge], i.wellFormed = true := by decide

/-- HeldTickStrobeIsOneTickPerCycle: P6 cycles 2 and 3, and two rotation steps of a lit variant B (P2 steps 8 and 9). -/
theorem witness_held_strobe :
    (let s := { stB 0 0 false .i0 false false false with
      swPrev := true, inputs := [⟨false, true, true, false, 0⟩, ⟨false, true, true, false, 0⟩] }
     buildValid s.build = true ∧ s.inputs = List.replicate 2 ⟨false, true, s.swPrev, false, 0⟩) ∧
    (let s := { stB 3 2 true .i1 false false true with
      inputs := [⟨false, true, false, false, 0⟩, ⟨false, true, false, false, 0⟩] }
     buildValid s.build = true ∧ s.inputs = List.replicate 2 ⟨false, true, s.swPrev, false, 0⟩ ∧
       Host.Core.run core 2 s = .next (stB 5 2 true .i0 true false false)) := ⟨by decide, by decide, by decide, rfl⟩

/-- StepKeepsInv: a state with Inv, in the middle of a window and lit, and its next. -/
theorem witness_inv :
    let s := { stA 254 3 true 3069 3 true with inputs := [⟨false, true, true, true, 1023⟩] }
    s.Inv ∧ step s = .next { stA 255 254 false 3069 3 false with swPrev := true } :=
  ⟨⟨by decide, ⟨by decide, by decide⟩, (by intro h; cases h), ⟨rfl, rfl, rfl⟩⟩, rfl⟩

/-- AccumulatorNeverOverflows, LinesAreLowWheneverOff, AbsentRegistersHoldZero, BuildIsNeverWritten. -/
theorem witness_runs :
    buildValid Build.hardwareA = true ∧
    runOps [.tick, .edgeSample 1023, .sample 1023, .tickSample 1023, .edge] (State.resetOf Build.hardwareA) =
      .next (stA 2 2 false 3069 3 false) ∧
    runOps [.tick, .tick, .edge, .tick] (State.resetOf Build.hardwareB) = .next (stB 3 2 true .i1 false false true) ∧
    Host.Core.run core 1 (stA 9 4 true 903 3 true) = .next (stA 9 4 true 903 3 true) := ⟨by decide, rfl, rfl, rfl⟩

/-- OnlyEdgeReadsTickAndLast, EdgeDependsOnlyOnTheThreshold: another `tick` and `last` on the same side. -/
theorem witness_tick_readers :
    carriesEdge .tick = false ∧ Instr.tick ≠ .reset ∧
    exec .tick (stB 3 2 true .i1 false false true) = .next (stB 4 2 true .i2 false true false) ∧
    (let s := stB 2 0 true .i1 false false true
     let r := { s with tick := 255, last := 253 }
     (s.last.toNat + s.build.debounce ≤ s.tick.toNat ∧ r.last.toNat + r.build.debounce ≤ r.tick.toNat) ∧
       exec .edge s = .next (stB 2 2 false .i1 false false false) ∧
       exec .edge r = .next (stB 255 255 false .i1 false false false)) :=
  ⟨rfl, by decide, rfl, ⟨by decide, by decide⟩, rfl, rfl⟩

end Sys2Proof.Machine
end

section
/-! The cycle word (30_encoding.md R41 to R45): the canonical word of a word's operation, what a row of the opcode map
covers, and the three statements of the family. -/

namespace Sys2Proof

/-! ## The decoder and the encoder -/

/-- `rst = 1` overrides every other bit (R44). -/
theorem decode_of_rst {w : CycleWord} (h : fieldRst w = true) : decode w = .reset := by
  unfold decode
  split <;> simp_all

/-- An operand is read exactly from the words with `rst = 0` and `sample = 1`, and it is their data (R42, R44). -/
theorem decode_rawOperand_eq_some {w : CycleWord} {raw : Nat} :
    (decode w).rawOperand = some raw ↔ fieldRst w = false ∧ fieldSample w = true ∧ raw = fieldData w := by
  unfold decode
  split <;> simp [Instr.rawOperand, *, eq_comm (a := raw)]

theorem fieldData_encode (i : Instr) : fieldData (encode i) = i.rawOperand.getD 0 % 1024 := by
  cases i <;> simp [encode, Instr.rawOperand]

theorem fieldRst_encode_iff {i : Instr} : fieldRst (encode i) = true ↔ i = .reset := by
  cases i <;> simp [encode]

/-- The canonical word of a word without `rst`: the same event bits, and the data only with a sample event (R44). -/
theorem encode_decode_of_not_rst {w : CycleWord} (h : fieldRst w = false) :
    encode (decode w) = packWord false (fieldEdge w) (fieldTick w) (fieldSample w)
      (if fieldSample w then BitVec.ofNat 10 (fieldData w) else 0) := by
  unfold decode
  split <;> simp_all [encode]

/-- Taking the canonical word keeps `rst`. -/
theorem fieldRst_encode_decode (w : CycleWord) : fieldRst (encode (decode w)) = fieldRst w := by
  cases hr : fieldRst w with
  | true => rw [decode_of_rst hr, fieldRst_encode_iff]
  | false => rw [encode_decode_of_not_rst hr, fieldRst_packWord]

/-- The canonical word of a word's operation is that operation again (R44). -/
theorem decode_encode_decode (w : CycleWord) : decode (encode (decode w)) = decode w := by
  cases hr : fieldRst w with
  | true => rw [decode_of_rst hr, decode_of_rst (fieldRst_encode_iff.2 rfl)]
  | false =>
    rw [encode_decode_of_not_rst hr]
    refine decode_congr (by simp [hr]) (by simp) (by simp) (by simp) fun hs => ?_
    rw [fieldSample_packWord] at hs
    simp [hs, Nat.mod_eq_of_lt (fieldData_lt w)]

/-! ## The opcode map -/

theorem covers_iff {r : OpcodeRow} {w : CycleWord} : r.covers w = true ↔ w &&& r.mask = r.value := by
  simp [OpcodeRow.covers]

/-- A row looks at all four event bits, or it is RESET's and looks at `rst` alone (R43). -/
theorem mask_of_mem_opcodeRows {r : OpcodeRow} (h : r ∈ opcodeRows) :
    r.mask = 0x3C00#14 ∧ r.value ≠ 0x2000#14 ∨ r.mask = 0x2000#14 ∧ r.value = 0x2000#14 := by
  revert r
  decide

/-- Two different rows ask for different values of some bit that both look at. -/
theorem opcodeRows_disjoint : ∀ r ∈ opcodeRows, ∀ r' ∈ opcodeRows,
    r.value &&& r'.mask = r'.value &&& r.mask → r = r' := by
  decide

/-- No word matches two rows (R43). -/
theorem covers_unique {r r' : OpcodeRow} {w : CycleWord} (hr : r ∈ opcodeRows) (hr' : r' ∈ opcodeRows)
    (h : r.covers w = true) (h' : r'.covers w = true) : r = r' := by
  apply opcodeRows_disjoint r hr r' hr'
  rw [← covers_iff.1 h, ← covers_iff.1 h', BitVec.and_assoc, BitVec.and_assoc, BitVec.and_comm r.mask]

/-- A word with its fields put together again. -/
theorem packWord_fields (w : CycleWord) :
    packWord (fieldRst w) (fieldEdge w) (fieldTick w) (fieldSample w) (BitVec.ofNat 10 (fieldData w)) = w := by
  rw [fieldData, BitVec.ofNat_toNat, BitVec.setWidth_eq]
  refine BitVec.eq_of_getLsbD_eq fun k hk => ?_
  simp only [packWord, BitVec.getLsbD_append]
  by_cases hdata : k < 10
  · simp [hdata]
  · obtain rfl | rfl | rfl | rfl : k = 10 ∨ k = 11 ∨ k = 12 ∨ k = 13 := by omega
    all_goals simp [fieldRst, fieldEdge, fieldTick, fieldSample]

theorem packWord_and_eventMask (rst edge tick sample : Bool) (x : RawWord) :
    packWord rst edge tick sample x &&& 0x3C00#14 = packWord rst edge tick sample 0 := by
  rw [Laws.EncodeFitsRow.mask_pack]
  revert rst edge tick sample
  decide

theorem packWord_toNat (rst edge tick sample : Bool) (x : RawWord) :
    (packWord rst edge tick sample x).toNat = (packWord rst edge tick sample 0).toNat + x.toNat := by
  simp only [packWord, BitVec.toNat_append, ← Nat.shiftLeft_add_eq_or_of_lt x.isLt]
  simp

/-- A word is its event bits plus its data. -/
theorem toNat_eq_eventBits_add_fieldData (w : CycleWord) : w.toNat = (w &&& 0x3C00#14).toNat + fieldData w := by
  rw [← packWord_fields w, packWord_and_eventMask, packWord_toNat, fieldData_packWord]

theorem and_rstMask_iff {w : CycleWord} : w &&& 0x2000#14 = 0x2000#14 ↔ fieldRst w = true := by
  have hmask : 0x2000#14 = BitVec.twoPow 14 13 := by decide
  have hne : 0#14 ≠ BitVec.twoPow 14 13 := by decide
  rw [hmask, BitVec.and_twoPow, fieldRst]
  split <;> simp_all

/-- Without `rst`, a word and its canonical word have the same event bits. -/
theorem and_eventMask_encode_decode {w : CycleWord} (h : fieldRst w = false) :
    encode (decode w) &&& 0x3C00#14 = w &&& 0x3C00#14 := by
  conv_rhs => rw [← packWord_fields w]
  rw [encode_decode_of_not_rst h, packWord_and_eventMask, packWord_and_eventMask, h]

/-- Every operation's canonical word lies in the operation's own row (R43). -/
theorem encode_fits_row (i : Instr) : Laws.EncodeFitsRow.Statement i := by
  cases i with
  | reset => exact Laws.EncodeFitsRow.reset
  | idle => exact Laws.EncodeFitsRow.idle
  | sample raw => exact Laws.EncodeFitsRow.sample raw
  | tick => exact Laws.EncodeFitsRow.tick
  | tickSample raw => exact Laws.EncodeFitsRow.tickSample raw
  | edge => exact Laws.EncodeFitsRow.edge
  | edgeSample raw => exact Laws.EncodeFitsRow.edgeSample raw
  | edgeTick => exact Laws.EncodeFitsRow.edgeTick
  | edgeTickSample raw => exact Laws.EncodeFitsRow.edgeTickSample raw

/-- A row that takes in a word's canonical word takes in the word itself: the bits in which they differ are ignored. -/
theorem covers_of_covers_encode_decode {r : OpcodeRow} {w : CycleWord} (hr : r ∈ opcodeRows)
    (h : r.covers (encode (decode w)) = true) : r.covers w = true := by
  rw [covers_iff] at h ⊢
  obtain ⟨hm, hne⟩ | ⟨hm, hv⟩ := mask_of_mem_opcodeRows hr <;> rw [hm] at h ⊢
  · have hrst : fieldRst w = false := Bool.eq_false_iff.2 fun hrst => by
      rw [decode_of_rst hrst] at h
      exact hne (h.symm.trans (by decide))
    rw [← h, and_eventMask_encode_decode hrst]
  · rw [hv, and_rstMask_iff] at h ⊢
    rwa [fieldRst_encode_decode] at h

/-- The canonical word is its row's match value plus the operand (R43). -/
theorem encode_toNat_of_covers {r : OpcodeRow} {i : Instr} (hr : r ∈ opcodeRows) (h : r.covers (encode i) = true) :
    (encode i).toNat = r.value.toNat + i.rawOperand.getD 0 % 1024 := by
  rw [covers_iff] at h
  obtain ⟨hm, -⟩ | ⟨hm, hv⟩ := mask_of_mem_opcodeRows hr
  · rw [← h, hm, ← fieldData_encode, ← toNat_eq_eventBits_add_fieldData]
  · rw [hm, hv, and_rstMask_iff, fieldRst_encode_iff] at h
    rw [h, hv]
    decide

/-- Settles O39: a word's row is the one its canonical word lies in, and two rows never share a word. -/
theorem everyWordMatchesExactlyOneRow : Obligations.EveryWordMatchesExactlyOneRow := by
  unfold Obligations.EveryWordMatchesExactlyOneRow
  refine ⟨fun w => ?_, fun w raw h => ?_, fun i hi => ?_⟩
  · obtain ⟨r, hr, hname, hc⟩ := encode_fits_row (decode w)
    have hw := covers_of_covers_encode_decode hr hc
    exact ⟨r, hr, hw, hname, fun r' hr' hw' => covers_unique hr' hr hw' hw⟩
  · obtain ⟨-, -, hraw⟩ := decode_rawOperand_eq_some.1 h
    rw [hraw, fieldData_eq]
  · obtain ⟨r, hr, hname, hc⟩ := encode_fits_row i
    have hfit : i.rawOperand.getD 0 % 1024 = i.rawOperand.getD 0 := by
      cases hraw : i.rawOperand <;> simp_all [Instr.wellFormed, Nat.mod_eq_of_lt]
    exact ⟨r, hr, hname, by rw [encode_toNat_of_covers hr hc, hfit]⟩

/-- Settles O40: words with the same bits 13 to 10 and without a sample event differ only in data that is not read. -/
theorem ignoredBitsDoNotMatter : Obligations.IgnoredBitsDoNotMatter := by
  unfold Obligations.IgnoredBitsDoNotMatter
  refine ⟨fun w v hw hv => ?_, fun w v hs hwv => ?_, fun i hi => ?_, by decide, decode_encode_decode⟩
  · rw [decode_of_rst hw, decode_of_rst hv]
  · have hbit (k : Nat) : w.getLsbD (10 + k) = v.getLsbD (10 + k) := by
      rw [← BitVec.getLsbD_ushiftRight, hwv, BitVec.getLsbD_ushiftRight]
    exact decode_congr (hbit 3) (hbit 2) (hbit 1) (hbit 0) fun h => absurd (hs.symm.trans h) Bool.false_ne_true
  · rw [← fieldData_eq, fieldData_encode, hi]
    rfl

end Sys2Proof

namespace Sys2Proof.Machine

/-- In variant B an operation with a sample event is refused as a whole (R45). -/
theorem exec_of_b_of_rawOperand {i : Instr} {raw : Nat} {s : State} (hb : buildValid s.build = true)
    (hv : s.build.variant = .b) (hi : i.rawOperand = some raw) : exec i s = .refused .noSamplePort := by
  have hport (raw : Nat) (f : State → State) : onSamplePort s raw f = .refused .noSamplePort := by
    simp [onSamplePort, hb, hv]
  cases i with
  | sample | tickSample | edgeSample | edgeTickSample => exact hport _ _
  | reset | idle | tick | edge | edgeTick => cases hi

/-- Settles O35: a word carries an operand exactly with `rst = 0` and `sample = 1`, and then at most 1023. -/
theorem onlyVariantBRefusesSampleWords : Obligations.OnlyVariantBRefusesSampleWords := by
  unfold Obligations.OnlyVariantBRefusesSampleWords
  refine fun w s hb => ⟨fun hv hrst hs => ?_, fun hv hw => ?_, fun hv hmax => ?_⟩
  · exact exec_of_b_of_rawOperand hb hv (decode_rawOperand_eq_some.2 ⟨hrst, hs, rfl⟩)
  · refine ⟨_, exec_of_applies ⟨hb, fun raw hraw => ?_⟩⟩
    obtain ⟨hrst, hs, -⟩ := decode_rawOperand_eq_some.1 hraw
    obtain hw | hw := hw
    · cases hw.symm.trans hrst
    · cases hw.symm.trans hs
  · refine ⟨_, exec_of_applies ⟨hb, fun raw hraw => ⟨hv, ?_⟩⟩⟩
    obtain ⟨-, -, rfl⟩ := decode_rawOperand_eq_some.1 hraw
    have := fieldData_lt w
    omega

end Sys2Proof.Machine
end

section
/-! The Tick Source (40_tick_source.md R55 to R57): TICK in the terms of the rules, a run of TICKs, and the operations
that write the counter. -/

namespace Sys2Proof.Machine

/-- The counter's own addition is addition modulo 256 (R56). -/
theorem tickWord_add_one (v : TickWord) : v + 1 = BitVec.ofNat 8 ((v.toNat + 1) % 256) := by
  apply BitVec.eq_of_toNat_eq
  simp

/-- TICK carries no operand, so that a specified build is all it asks for. -/
theorem exec_tick_of_valid {s : State} (h : buildValid s.build = true) : exec .tick s = .next (tickEvent s) :=
  exec_of_applies ⟨h, nofun⟩

/-- Without a rotator, or with the rotator held by the power, TICK only counts (R55, R87). -/
theorem tickEvent_of_a_or_off {s : State} (h : s.build.variant = .a ∨ s.power = false) :
    tickEvent s = setTick s (s.tick + 1) := by
  cases hv : s.build.variant with
  | a => exact tickEvent_of_a hv
  | b => exact tickEvent_of_b_off hv (h.resolve_left fun ha => nomatch hv.symm.trans ha)

/-- What TICK writes beside the counter does not depend on the counter. -/
theorem tickEvent_setTick (s : State) (v : TickWord) : tickEvent (setTick s v) = setTick (tickEvent s) (v + 1) := by
  cases hv : s.build.variant with
  | a => rw [tickEvent_of_a hv, tickEvent_of_a (s := setTick s v) hv]; rfl
  | b =>
    cases hp : s.power with
    | false => rw [tickEvent_of_b_off hv hp, tickEvent_of_b_off (s := setTick s v) hv hp]; rfl
    | true => rw [tickEvent_of_b_on hv hp, tickEvent_of_b_on (s := setTick s v) hv hp]; rfl

/-- A run of TICKs is the TICK event iterated. -/
theorem runOps_replicate_tick (n : Nat) {s : State} (h : buildValid s.build = true) :
    runOps (List.replicate n .tick) s = .next (tickEvent^[n] s) := by
  induction n generalizing s with
  | zero => rfl
  | succ n ih =>
    rw [List.replicate_succ, runOps_cons_of_next (exec_tick_of_valid h), Function.iterate_succ_apply]
    exact ih (by rwa [tickEvent_build])

theorem tickEvent_iterate_tick (n : Nat) (s : State) : (tickEvent^[n] s).tick = s.tick + BitVec.ofNat 8 n := by
  induction n with
  | zero => simp
  | succ n ih => rw [Function.iterate_succ_apply', tickEvent_tick, ih, BitVec.ofNat_add, ← BitVec.add_assoc]; rfl

/-- RESET clears the counter, an operation with a TICK event adds one to it, any other keeps it (R57). -/
theorem effect_tick (i : Instr) (s : State) :
    (effect i s).tick = if i = .reset then 0 else if carriesTick i = true then s.tick + 1 else s.tick := by
  cases i with
  | reset => rfl
  | tick | tickSample | edgeTick | edgeTickSample => simp [effect, carriesTick]
  | idle | sample | edge | edgeSample => simp [effect, carriesTick]

/-- Settles O4: the trailing line is written before the leading one, so that the leading line's level wins. -/
theorem tickCountsAndRotates : Obligations.TickCountsAndRotates := by
  unfold Obligations.TickCountsAndRotates
  refine ⟨by decide, fun s hb => ?_⟩
  rw [exec_tick_of_valid hb, ← tickWord_add_one]
  refine ⟨fun h => ?_, fun hv hp => ⟨_, by rw [tickEvent_of_b_on hv hp], fun k => ?_⟩⟩
  · rw [tickEvent_of_a_or_off h]
    rfl
  · rw [lineLevel_writeLine, lineLevel_writeLine]

/-- Settles O5: a run of TICKs adds its length to the counter in the counter's own arithmetic. -/
theorem tickCounterIsModulo256 : Obligations.TickCounterIsModulo256 := by
  unfold Obligations.TickCounterIsModulo256
  refine ⟨fun n s hb => ?_, fun s hb => ?_, fun s t v h => ?_⟩
  · refine ⟨_, runOps_replicate_tick n hb, ?_⟩
    rw [tickEvent_iterate_tick]
    simp
  · refine ⟨_, runOps_replicate_tick 256 hb, ?_⟩
    rw [tickEvent_iterate_tick]
    simp
  · obtain ⟨ha, rfl⟩ := exec_next_iff.1 h
    rw [← tickWord_add_one]
    exact exec_next_iff.2 ⟨(applies_congr rfl).2 ha, (tickEvent_setTick s v).symm⟩

/-- Settles O6: the counter after an operation is the counter after its effect. -/
theorem tickCounterIsFreeRunning : Obligations.TickCounterIsFreeRunning := by
  unfold Obligations.TickCounterIsFreeRunning
  intro i s t h
  obtain ⟨-, rfl⟩ := exec_next_iff.1 h
  exact effect_tick i s

end Sys2Proof.Machine
end

section
/-! The Debounced Toggle (41_debounced_toggle.md R60 to R65, R70): EDGE in closed form, and the edge detector with the
switch level it stores. -/

namespace Sys2Proof.Machine

/-! ## EDGE -/

/-- EDGE carries no operand, so that a specified build is all it asks for. -/
theorem exec_edge_of_valid {s : State} (h : buildValid s.build = true) : exec .edge s = .next (edgeEvent s) :=
  exec_of_applies ⟨h, nofun⟩

/-- An accepted EDGE in one equation, for the power turned on and turned off (R65, R81). -/
theorem edgeEvent_of_accepted {s : State} (h : s.build.debounce ≤ s.tick.toNat - s.last.toNat)
    (hd : 1 ≤ s.build.debounce) :
    edgeEvent s =
      { s with
        power := !s.power
        last := s.tick
        out := if s.power = true then (allOutputsLow s).out else s.out
        sum := if s.power = true ∧ s.build.accClearOnOff = true then 0 else s.sum
        count := if s.power = true ∧ s.build.accClearOnOff = true then 0 else s.count } := by
  cases hp : s.power with
  | false => simp [edgeEvent_of_accepted_on h hd hp]
  | true => simp [edgeEvent_of_accepted_off h hd hp]

/-- The clamp's `lst` as a number is the smaller of `last` and `tick` (R62). -/
theorem ofNat_min_toNat (l v : TickWord) :
    BitVec.ofNat 8 (min l.toNat v.toNat) = if v.toNat < l.toNat then v else l := by
  split <;> rename_i h
  · rw [Nat.min_eq_right h.le, BitVec.ofNat_toNat, BitVec.setWidth_eq]
  · rw [Nat.min_eq_left (Nat.le_of_not_lt h), BitVec.ofNat_toNat, BitVec.setWidth_eq]

/-- A discarded EDGE in one equation: where the clamp writes, `last` becomes `lst` (R62, R64). -/
theorem edgeEvent_of_discarded_eq_min {s : State} (h : s.tick.toNat - s.last.toNat < s.build.debounce) :
    edgeEvent s =
      { s with
        last := if s.build.clampWriteback = true then BitVec.ofNat 8 (min s.last.toNat s.tick.toNat) else s.last } := by
  rw [edgeEvent_of_discarded h, ofNat_min_toNat]
  cases s.build.clampWriteback with
  | false => simp
  | true =>
    simp only [and_true, if_true]
    split <;> rfl

/-- Settles O7: the elapsed count from `lst` is the truncated difference of `tick` and `last`. -/
theorem edgeInClosedForm : Obligations.EdgeInClosedForm := by
  unfold Obligations.EdgeInClosedForm
  refine ⟨by decide, fun s hb => ?_⟩
  obtain ⟨hd, -⟩ := buildValid_iff.1 hb
  have helapsed : s.tick.toNat - min s.last.toNat s.tick.toNat = s.tick.toNat - s.last.toNat := by omega
  dsimp only
  rw [exec_edge_of_valid hb, helapsed]
  refine ⟨fun h => ?_, fun h => ?_⟩
  · have hnext := edgeEvent_of_accepted h hd
    rw [allOutputsLow_eq] at hnext
    exact congrArg Host.Outcome.next hnext
  · rw [edgeEvent_of_discarded_eq_min h]

/-! ## The edge detector -/

theorem edgeDetect_both_iff {sw swPrev : Bool} : edgeDetect .both sw swPrev = true ↔ sw ≠ swPrev := by
  simp [edgeDetect]

theorem edgeDetect_rise_iff {sw swPrev : Bool} : edgeDetect .rise sw swPrev = true ↔ sw = true ∧ swPrev = false := by
  simp [edgeDetect]

theorem edgeDetect_fall_iff {sw swPrev : Bool} : edgeDetect .fall sw swPrev = true ↔ sw = false ∧ swPrev = true := by
  simp [edgeDetect]

theorem currentPins_of_inputs {s : State} {p : Pins} {ps : List Pins} (h : s.inputs = p :: ps) : currentPins s = p := by
  simp [currentPins, h]

theorem fieldRst_fetchWord (s : State) : fieldRst (fetchWord s) = (currentPins s).rst :=
  fieldRst_packWord ..

theorem fieldEdge_fetchWord (s : State) :
    fieldEdge (fetchWord s) = edgeDetect s.build.edgeSel (currentPins s).sw s.swPrev :=
  fieldEdge_packWord ..

/-- RESET is the operation of exactly the words with `rst = 1` (R43, R44). -/
theorem decode_eq_reset_iff {w : CycleWord} : decode w = .reset ↔ fieldRst w = true := by
  rw [← fieldRst_encode_iff, fieldRst_encode_decode]

/-- Of the operations only RESET writes `sw_prev` (R95). -/
theorem effect_swPrev (i : Instr) (s : State) : (effect i s).swPrev = if i = .reset then false else s.swPrev := by
  cases i with
  | reset => rfl
  | idle => rfl
  | sample | tick | tickSample | edge | edgeSample | edgeTick | edgeTickSample => simp [effect]

/-- What a cycle leaves in `sw_prev`: the switch level it sampled, cleared by RESET (R70). -/
theorem step_swPrev {s t : State} (h : step s = .next t) : t.swPrev = swPrevAfter (currentPins s) := by
  rw [step_eq] at h
  obtain ⟨-, rfl⟩ := exec_next_iff.1 h
  simp only [effect_swPrev, decode_eq_reset_iff, fieldRst_fetchWord]
  rfl

/-- Settles O43: bit 12 of the cycle word is the detector's answer, and no operation but RESET writes `sw_prev`. -/
theorem edgeDetectorRaisesTheChosenTransitions : Obligations.EdgeDetectorRaisesTheChosenTransitions := by
  unfold Obligations.EdgeDetectorRaisesTheChosenTransitions
  refine fun s p ps hin => ⟨?_, fun t ht => ?_⟩
  · have hbit : (fetchWord s).getLsbD 12 = edgeDetect s.build.edgeSel p.sw s.swPrev := by
      rw [← currentPins_of_inputs hin, ← fieldEdge_fetchWord, fieldEdge]
    rw [hbit]
    cases s.build.edgeSel with
    | both => exact edgeDetect_both_iff
    | rise => exact edgeDetect_rise_iff
    | fall => exact edgeDetect_fall_iff
  · rw [step_swPrev ht, currentPins_of_inputs hin, swPrevAfter]

end Sys2Proof.Machine
end

section
/-! The Hysteresis Threshold Driver (42_hysteresis_driver.md R75 to R79): one SAMPLE while off, inside a window and at
its end. -/

namespace Sys2Proof.Machine

/-- What SAMPLE asks for: a specified build, variant A and an operand in range (R75). -/
theorem exec_sample_of_valid {raw : Nat} {s : State} (hb : buildValid s.build = true) (hv : s.build.variant = .a)
    (hr : raw ≤ s.build.rawMax) : exec (.sample raw) s = .next (sampleEvent raw s) := by
  refine exec_of_applies ⟨hb, fun raw' hraw => ?_⟩
  cases hraw
  exact ⟨hv, hr⟩

/-- Another sample in range brings a window not yet full to at most a full window's largest sum, which fits `sum`
(R16). -/
theorem State.AccumulatorInRange.sum_add_lt {raw : Nat} {s : State} (h : s.AccumulatorInRange)
    (hb : buildValid s.build = true) (hr : raw ≤ s.build.rawMax) : s.sum.toNat + raw < 4096 := by
  obtain ⟨hcount, hsum⟩ := h
  obtain ⟨-, -, -, -, hfit, -⟩ := buildValid_iff.1 hb
  calc s.sum.toNat + raw
      ≤ s.count.toNat * s.build.rawMax + s.build.rawMax := Nat.add_le_add hsum hr
    _ = (s.count.toNat + 1) * s.build.rawMax := (Nat.succ_mul _ _).symm
    _ ≤ s.build.window * s.build.rawMax := Nat.mul_le_mul_right _ hcount
    _ < 4096 := hfit

/-- Inside a window the exact sum and the exact count are stored, and nothing else is written (R77). -/
theorem sampleEvent_of_partial_of_fits {raw : Nat} {s : State} (hp : s.power = true)
    (hc : s.count.toNat + 1 < s.build.window) (hfit : s.sum.toNat + raw < 4096) :
    sampleEvent raw s =
      setAccumulator s (BitVec.ofNat 12 (s.sum.toNat + raw)) (BitVec.ofNat 2 (s.count.toNat + 1)) := by
  rw [sampleEvent_of_partial hp hc, storeAccumulator_of_fits hfit]

/-- The sample that fills the window divides by `WINDOW`, decides, and empties the accumulator (R78, R79). -/
theorem sampleEvent_of_count_add_one_eq_window {raw : Nat} {s : State} (hp : s.power = true)
    (hc : s.count.toNat + 1 = s.build.window) :
    sampleEvent raw s = setAccumulator (decideOutput s ((s.sum.toNat + raw) / s.build.window)) 0 0 := by
  rw [sampleEvent_of_full hp hc.ge, hc]

/-- Settles O20: inside a window both registers hold the exact values, since the invariant R16 and the build's
constraints leave room for them. -/
theorem sampleAccumulatesThenDecides : Obligations.SampleAccumulatesThenDecides := by
  unfold Obligations.SampleAccumulatesThenDecides
  intro raw s hb hv hr hp hacc
  rw [exec_sample_of_valid hb hv hr]
  refine ⟨fun hc => ?_, fun hc => ?_⟩
  · have hsum : s.sum.toNat + raw < 4096 := hacc.sum_add_lt hb hr
    have hcount : s.count.toNat + 1 < 4 := by
      obtain ⟨-, -, hwindow, -⟩ := buildValid_iff.1 hb
      omega
    refine ⟨_, rfl, ?_⟩
    rw [sampleEvent_of_partial_of_fits hp hc hsum]
    exact ⟨rfl, (BitVec.toNat_ofNat ..).trans (Nat.mod_eq_of_lt hsum),
      (BitVec.toNat_ofNat ..).trans (Nat.mod_eq_of_lt hcount)⟩
  · rw [sampleEvent_of_count_add_one_eq_window hp hc, decideOutput_eq]
    rfl

/-- Settles O19: the SAMPLE event is the identity while off. -/
theorem sampleWhileOffChangesNothing : Obligations.SampleWhileOffChangesNothing := by
  unfold Obligations.SampleWhileOffChangesNothing
  intro raw s hb hv hr hoff
  rw [exec_sample_of_valid hb hv hr, sampleEvent_of_off raw hoff]

end Sys2Proof.Machine
end

section
/-! The Sequence Rotator (43_sequence_rotator.md R87, R88): what TICK and what each operation leave in the rotation
index. -/

namespace Sys2Proof.Machine

/-- The index after TICK: advanced by the rotator while the power is on, frozen otherwise (R88). -/
theorem tickEvent_idx (s : State) :
    (tickEvent s).idx = if s.build.variant = .b ∧ s.power = true then nextIndex s.idx else s.idx := by
  cases hv : s.build.variant with
  | a => simp [tickEvent_of_a hv]
  | b =>
    cases hp : s.power with
    | false => simp [tickEvent_of_b_off hv hp]
    | true => simp [tickEvent_of_b_on hv hp]

/-- RESET clears the index, a TICK event advances it in variant B under the power that the operation leaves, and nothing
else writes it (R88). Neither TICK nor SAMPLE writes the power, so the power left is the one the rotator sees after the
EDGE of the same cycle (R97). -/
theorem effect_idx (i : Instr) (s : State) :
    (effect i s).idx =
      if i = .reset then .i0
      else if s.build.variant = .b ∧ carriesTick i = true ∧ (effect i s).power = true then nextIndex s.idx
      else s.idx := by
  cases i with
  | reset => rfl
  | tick | tickSample | edgeTick | edgeTickSample => simp [effect, carriesTick, tickEvent_idx]
  | idle | sample | edge | edgeSample => simp [effect, carriesTick]

/-- Settles O28: the index after an operation is the index after its effect. -/
theorem rotationIndexAdvancesOnlyWhileOn : Obligations.RotationIndexAdvancesOnlyWhileOn := by
  unfold Obligations.RotationIndexAdvancesOnlyWhileOn
  refine ⟨rfl, rfl, rfl, fun i s t h => ?_⟩
  obtain ⟨-, rfl⟩ := exec_next_iff.1 h
  exact effect_idx i s

end Sys2Proof.Machine
end

section
/-! The system operations (44_system_ops.md R95 to R97): RESET, IDLE, and the operation of a cycle word as its events in
the order EDGE, TICK, SAMPLE. -/

namespace Sys2Proof.Machine

/-! ## RESET and IDLE by themselves -/

/-- RESET carries no operand, so that a specified build is all it asks for. -/
theorem exec_reset_of_valid {s : State} (h : buildValid s.build = true) : exec .reset s = .next (resetRegisters s) :=
  exec_of_applies ⟨h, nofun⟩

/-- IDLE carries no operand, so that a specified build is all it asks for. -/
theorem exec_idle_of_valid {s : State} (h : buildValid s.build = true) : exec .idle s = .next s :=
  exec_of_applies ⟨h, nofun⟩

/-- Settles O1: RESET's effect reads no register, and `rst = 1` overrides the rest of the word. -/
theorem resetReturnsEveryRegisterToItsResetValue : Obligations.ResetReturnsEveryRegisterToItsResetValue := by
  unfold Obligations.ResetReturnsEveryRegisterToItsResetValue
  exact ⟨fun _ hb => exec_reset_of_valid hb, fun _ hw => decode_of_rst hw, by decide⟩

/-! ## A word's events -/

/-- The operation of a word without `rst` stands for the events whose bits are set, in the order of the bits (R43,
R47). -/
theorem expand_decode_of_not_rst {w : CycleWord} (h : fieldRst w = false) :
    expand (decode w) =
      (if fieldEdge w = true then [.edge] else []) ++ (if fieldTick w = true then [.tick] else []) ++
        (if fieldSample w = true then [.sample (fieldData w)] else []) := by
  unfold decode
  split <;> simp_all [expand]

/-- IDLE alone carries no event (R47). -/
theorem expand_eq_nil_iff {i : Instr} : expand i = [] ↔ i = .idle := by
  cases i <;> simp [expand]

/-- IDLE is the operation of exactly the words without an event (R43, R96). -/
theorem decode_eq_idle_iff {w : CycleWord} :
    decode w = .idle ↔ fieldRst w = false ∧ fieldEdge w = false ∧ fieldTick w = false ∧ fieldSample w = false := by
  cases hr : fieldRst w with
  | true => simp [decode_of_rst hr]
  | false =>
    rw [← expand_eq_nil_iff, expand_decode_of_not_rst hr]
    simp

/-- Where both transitions are events, a cycle without an EDGE event leaves `sw_prev` as it is (R70). -/
theorem takePins_of_not_edge {s : State} (hsel : s.build.edgeSel = .both) (h : fieldEdge (fetchWord s) = false) :
    takePins s = setInputs s s.inputs.tail := by
  have hsw : (currentPins s).sw = s.swPrev := by
    by_contra hne
    rw [fieldEdge_fetchWord, hsel, edgeDetect_both_iff.2 hne] at h
    cases h
  rw [takePins, hsw]
  rfl

/-- Settles O3: an idle word has no event bit, and without an EDGE event the switch level is the stored one. -/
theorem idleWritesNothing : Obligations.IdleWritesNothing := by
  unfold Obligations.IdleWritesNothing
  refine ⟨fun _ hb => exec_idle_of_valid hb, fun _ => decode_eq_idle_iff, by decide, fun s hb hsel hidle => ?_⟩
  obtain ⟨-, hedge, -, -⟩ := decode_eq_idle_iff.1 hidle
  rw [step_eq, hidle, exec_idle_of_valid (by rwa [takePins_build]), takePins_of_not_edge hsel hedge]
  rfl

/-! ## An operation as its events one after another -/

theorem runOps_singleton (i : Instr) (s : State) : runOps [i] s = exec i s := by
  cases h : exec i s <;> simp [runOps, h]

/-- The test before a sample event reads the build alone, so that it may as well be made after the events that come
before SAMPLE: a compound is refused exactly where its SAMPLE is, and for the same reason (R45, R97). -/
theorem onSamplePort_sampleEvent_comp {s : State} (g : State → State) (raw : Nat) (h : (g s).build = s.build) :
    onSamplePort s raw (fun t => sampleEvent raw (g t)) = exec (.sample raw) (g s) := by
  simp [exec, execSample, onSamplePort, h]

/-- An operation answers what its list of events answers, refusals included (R47, R97). -/
theorem exec_eq_runOps_expand (i : Instr) {s : State} (hb : buildValid s.build = true) :
    exec i s = runOps (expand i) s := by
  have hedge := exec_edge_of_valid hb
  have hb' : buildValid (edgeEvent s).build = true := by rwa [edgeEvent_build]
  cases i with
  | reset | sample | tick | edge => exact (runOps_singleton _ s).symm
  | idle => exact exec_idle_of_valid hb
  | tickSample raw =>
    rw [expand, runOps_cons_of_next (exec_tick_of_valid hb), runOps_singleton]
    exact onSamplePort_sampleEvent_comp tickEvent raw (tickEvent_build s)
  | edgeSample raw =>
    rw [expand, runOps_cons_of_next hedge, runOps_singleton]
    exact onSamplePort_sampleEvent_comp edgeEvent raw (edgeEvent_build s)
  | edgeTick =>
    rw [expand, runOps_cons_of_next hedge, runOps_singleton, exec_tick_of_valid hb']
    exact exec_of_applies ⟨hb, nofun⟩
  | edgeTickSample raw =>
    rw [expand, runOps_cons_of_next hedge, runOps_cons_of_next (exec_tick_of_valid hb'), runOps_singleton]
    exact onSamplePort_sampleEvent_comp (fun t => tickEvent (edgeEvent t)) raw (by simp)

/-- Settles O32: an operation is its list of events, and a word without `rst` lists the events of its set bits. -/
theorem operationIsItsEventsInOrder : Obligations.OperationIsItsEventsInOrder := by
  unfold Obligations.OperationIsItsEventsInOrder
  refine ⟨fun w s hb hw => ?_, fun i s hb => exec_eq_runOps_expand i hb⟩
  rw [exec_eq_runOps_expand _ hb, expand_decode_of_not_rst hw, fieldData_eq]
  rfl

end Sys2Proof.Machine
end

section
/-! Exceptions (60_exceptions.md R110): a clock cycle is its word's operation, so that the refusals of the cycle words
(R45) decide which cycles the hardware can be given. -/

namespace Sys2Proof.Machine

theorem fieldSample_fetchWord (s : State) : fieldSample (fetchWord s) = (currentPins s).sampleStb :=
  fieldSample_packWord ..

/-- A clock cycle never faults (R110). -/
theorem step_ne_fault (s : State) (r : Fault) : step s ≠ .fault r := by
  rw [step_eq]
  exact exec_ne_fault _ _ r

/-- Settles O56: the cycle's operation runs in the same build, and bits 13 and 10 of its word are the pins `rst` and
`sample_stb`, so that what is refused of the cycle words (R45) is refused of the cycles. -/
theorem everyCycleCompletes : Obligations.EveryCycleCompletes := by
  unfold Obligations.EveryCycleCompletes
  intro s hb
  rw [← takePins_build s] at hb ⊢
  obtain ⟨-, hvariantB, hvariantA⟩ := onlyVariantBRefusesSampleWords (fetchWord s) (takePins s) hb
  refine ⟨hvariantA, fun hv hpins => ?_, step_ne_fault s⟩
  rw [← fieldRst_fetchWord, ← fieldSample_fetchWord] at hpins
  exact hvariantB hv hpins

end Sys2Proof.Machine
end

section
/-! Reset and hazards (70_reset_and_hazards.md R134): what EDGE reads of a run of TICKs before it is the run's length
modulo 256. -/

namespace Sys2Proof.Machine

/-- A run of TICKs advances `tick` by its length and may step the rotator; of the registers EDGE decides by it
writes `tick` alone. -/
theorem tickEvent_iterate_eq (n : Nat) (s : State) :
    ∃ i o, tickEvent^[n] s = { s with tick := s.tick + BitVec.ofNat 8 n, idx := i, out := o } := by
  rw [← tickEvent_iterate_tick]
  induction n with
  | zero => exact ⟨s.idx, s.out, rfl⟩
  | succ n ih =>
    obtain ⟨_, _, h⟩ := ih
    obtain ⟨i, o, hstep⟩ := tickEvent_eq (tickEvent^[n] s)
    refine ⟨i, o, ?_⟩
    rw [Function.iterate_succ_apply', tickEvent_tick, hstep, h]

theorem runOps_replicate_tick_edge (n : Nat) {s : State} (h : buildValid s.build = true) :
    runOps (List.replicate n .tick ++ [.edge]) s = .next (edgeEvent (tickEvent^[n] s)) := by
  obtain ⟨i, o, hrun⟩ := tickEvent_iterate_eq n s
  refine runOps_append_next.2 ⟨_, runOps_replicate_tick n h, ?_⟩
  rw [runOps_singleton]
  exact exec_edge_of_valid (by rwa [hrun])

theorem tickWord_ofNat_mod_256 (n : Nat) : BitVec.ofNat 8 (n % 256) = BitVec.ofNat 8 n :=
  BitVec.eq_of_toNat_eq (by simp)

/-- The rotator's registers have no part in what EDGE decides and writes to `power` and `last` (R60). -/
theorem edgeEvent_timing_of_rotator (s : State) (i : RotIndex) (o : Lines) :
    (edgeEvent { s with idx := i, out := o }).power = (edgeEvent s).power ∧
      (edgeEvent { s with idx := i, out := o }).last = (edgeEvent s).last := by
  rw [edgeEvent_power, edgeEvent_power, edgeEvent_last, edgeEvent_last]
  exact ⟨rfl, rfl⟩

/-- A counter that started at `last` is `n mod 256` past it after `n` ticks, or has wrapped below it and counts as
not past it at all (R63, R134). -/
theorem tickWord_add_sub_le_mod (l : TickWord) (n : Nat) : (l + BitVec.ofNat 8 n).toNat - l.toNat ≤ n % 256 := by
  rw [BitVec.toNat_add, BitVec.toNat_ofNat]
  omega

/-- Settles O17: the counters after the two runs of TICKs are equal, and so is all else that EDGE reads. -/
theorem edgeTimingAliasesModulo256 : Obligations.EdgeTimingAliasesModulo256 := by
  unfold Obligations.EdgeTimingAliasesModulo256
  intro n s hb
  obtain ⟨i, o, hrun⟩ := tickEvent_iterate_eq n s
  obtain ⟨j, p, hrun'⟩ := tickEvent_iterate_eq (n % 256) s
  rw [tickWord_ofNat_mod_256] at hrun'
  have ht := edgeEvent_timing_of_rotator { s with tick := s.tick + BitVec.ofNat 8 n } i o
  have hu := edgeEvent_timing_of_rotator { s with tick := s.tick + BitVec.ofNat 8 n } j p
  refine ⟨_, _, runOps_replicate_tick_edge n hb, runOps_replicate_tick_edge (n % 256) hb, ?_⟩
  rw [hrun, hrun']
  refine ⟨ht.1.trans hu.1.symm, ht.2.trans hu.2.symm, by rw [edgeEvent_tick, edgeEvent_tick], fun hlast hn => ?_⟩
  rw [edgeEvent_power, if_neg]
  rw [edgeAccepted_iff, Nat.not_le, hlast]
  exact (tickWord_add_sub_le_mod s.tick n).trans_lt hn

end Sys2Proof.Machine
end

section
/-! The cycle word (30_encoding.md R42, R50): every operation that a cycle word can carry is read back from its
canonical word. -/

namespace Sys2Proof

/-- Settles O38: the decoder reads the event bits the encoder packed, and ten bits hold a well-formed operand
exactly. -/
theorem decodeEncodeRoundTrip : Obligations.DecodeEncodeRoundTrip := by
  unfold Obligations.DecodeEncodeRoundTrip
  intro i hi
  cases i with
  | reset => exact decode_of_rst (fieldRst_encode_iff.2 rfl)
  | idle | tick | edge | edgeTick => simp [decode, encode]
  | sample raw | tickSample raw | edgeSample raw | edgeTickSample raw =>
    have hraw : raw < 1024 := of_decide_eq_true hi
    simp [decode, encode, Nat.mod_eq_of_lt hraw]

/-- Settles O41: the encoder and the decoder evaluated on the words of the rule. -/
theorem workedEncodings : Obligations.WorkedEncodings := by
  unfold Obligations.WorkedEncodings
  decide

end Sys2Proof
end

section
/-! What RESET and the three events keep (10_state.md R16, R19, R26): each invariant event by event, and from there for
every operation, every clock cycle and every run. -/

namespace Sys2Proof.Machine

/-- An operation other than RESET is its events in the order of R97, so that what RESET and each event keep is kept by
every operation. -/
theorem effect_keeps {P : State → Prop} (hreset : ∀ s, P s → P (resetRegisters s))
    (hedge : ∀ s, buildValid s.build = true → P s → P (edgeEvent s)) (htick : ∀ s, P s → P (tickEvent s))
    (hsample : ∀ raw s, buildValid s.build = true → s.build.variant = .a → raw ≤ s.build.rawMax → P s →
      P (sampleEvent raw s))
    {i : Instr} {s : State} (ha : applies i s) (hs : P s) : P (effect i s) := by
  obtain ⟨hb, hport⟩ := ha
  have hedged := hedge s hb hs
  cases i with
  | reset => exact hreset s hs
  | idle => exact hs
  | tick => exact htick s hs
  | edge => exact hedged
  | edgeTick => exact htick _ hedged
  | sample raw =>
    obtain ⟨hv, hr⟩ := hport raw rfl
    exact hsample raw s hb hv hr hs
  | tickSample raw =>
    obtain ⟨hv, hr⟩ := hport raw rfl
    exact hsample raw _ (by simpa) (by simpa) (by simpa) (htick s hs)
  | edgeSample raw =>
    obtain ⟨hv, hr⟩ := hport raw rfl
    exact hsample raw _ (by simpa) (by simpa) (by simpa) hedged
  | edgeTickSample raw =>
    obtain ⟨hv, hr⟩ := hport raw rfl
    exact hsample raw _ (by simpa) (by simpa) (by simpa) (htick _ hedged)

/-! ## The accumulator (R16) -/

theorem State.AccumulatorInRange.of_empty {s : State} (hw : 1 ≤ s.build.window) (hsum : s.sum = 0)
    (hcount : s.count = 0) : s.AccumulatorInRange := by
  simp [State.AccumulatorInRange, hsum, hcount, hw]

theorem State.AccumulatorInRange.one_le_window {s : State} (h : s.AccumulatorInRange) : 1 ≤ s.build.window :=
  (Nat.le_add_left 1 _).trans h.1

/-- The invariant R16 reads the accumulator and the build alone. -/
theorem State.AccumulatorInRange.congr {s t : State} (h : s.AccumulatorInRange) (hb : t.build = s.build)
    (hacc : (t.sum, t.count) = (s.sum, s.count)) : t.AccumulatorInRange := by
  obtain ⟨hsum, hcount⟩ := Prod.mk.inj hacc
  rwa [State.AccumulatorInRange, hb, hsum, hcount]

theorem edgeEvent_accumulatorInRange {s : State} (h : s.AccumulatorInRange) : (edgeEvent s).AccumulatorInRange := by
  have hacc := edgeEvent_accumulator s
  split at hacc
  · obtain ⟨hsum, hcount⟩ := Prod.mk.inj hacc
    exact .of_empty (by rw [edgeEvent_build]; exact h.one_le_window) hsum hcount
  · exact h.congr (edgeEvent_build s) hacc

theorem tickEvent_accumulatorInRange {s : State} (h : s.AccumulatorInRange) : (tickEvent s).AccumulatorInRange :=
  h.congr (tickEvent_build s) (by rw [tickEvent_sum, tickEvent_count])

/-- Inside a window the sample adds at most `RAW_MAX` for the one it counts; a full window is emptied. -/
theorem sampleEvent_accumulatorInRange {raw : Nat} {s : State} (hb : buildValid s.build = true)
    (hr : raw ≤ s.build.rawMax) (h : s.AccumulatorInRange) : (sampleEvent raw s).AccumulatorInRange := by
  cases hp : s.power with
  | false => rwa [sampleEvent_of_off raw hp]
  | true =>
    by_cases hc : s.count.toNat + 1 < s.build.window
    · have hfit := h.sum_add_lt hb hr
      obtain ⟨-, -, hwindow, -⟩ := buildValid_iff.1 hb
      rw [sampleEvent_of_partial_of_fits hp hc hfit]
      simp only [State.AccumulatorInRange, setAccumulator_build, setAccumulator_sum, setAccumulator_count,
        BitVec.toNat_ofNat]
      rw [Nat.mod_eq_of_lt hfit, Nat.mod_eq_of_lt (by omega), Nat.succ_mul]
      exact ⟨hc, Nat.add_le_add h.2 hr⟩
    · rw [sampleEvent_of_full hp (Nat.le_of_not_lt hc)]
      refine .of_empty ?_ rfl rfl
      rw [setAccumulator_build, decideOutput_eq]
      exact h.one_le_window

/-- With a window not yet full the exact sum fits, so that SAMPLE draws no free value (R16). -/
theorem sampleEvent_draws_of_inRange {raw : Nat} {s : State} (hb : buildValid s.build = true)
    (hr : raw ≤ s.build.rawMax) (h : s.AccumulatorInRange) : (sampleEvent raw s).draws = s.draws := by
  cases hp : s.power with
  | false => rw [sampleEvent_of_off raw hp]
  | true =>
    by_cases hc : s.count.toNat + 1 < s.build.window
    · rw [sampleEvent_of_partial_of_fits hp hc (h.sum_add_lt hb hr), setAccumulator_draws]
    · rw [sampleEvent_of_full hp (Nat.le_of_not_lt hc), setAccumulator_draws, decideOutput_eq]

/-! ## The lines while off (R19) -/

theorem outPort_congr {s t : State} (hb : t.build = s.build) (ho : t.out = s.out) : outPort t = outPort s := by
  rw [outPort, outPort, hb, ho]

theorem forall_mem_outPort_iff {s : State} :
    (∀ level ∈ outPort s, level = false) ↔ ∀ l ∈ linesOf s.build.variant, lineLevel s.out l = false := by
  simp [outPort]

theorem outPort_of_all_low {s : State} (h : s.out = ⟨false, false, false⟩) : ∀ level ∈ outPort s, level = false := by
  refine forall_mem_outPort_iff.2 fun l _ => ?_
  rw [h]
  cases l <;> rfl

theorem tickEvent_darkWhenOff {s : State} (h : s.DarkWhenOff) : (tickEvent s).DarkWhenOff := by
  intro hp
  rw [tickEvent_power] at hp
  rw [tickEvent_of_a_or_off (.inr hp)]
  exact h hp

/-- An EDGE that turns the power off drives every line low (R65). -/
theorem edgeEvent_all_low_of_turn_off {s : State} (ha : edgeAccepted s = true) (hp : s.power = true) :
    ∀ level ∈ outPort (edgeEvent s), level = false := by
  have hout : (edgeEvent s).out = (allOutputsLow s).out := by rw [edgeEvent_out, if_pos ⟨ha, hp⟩]
  rw [outPort_congr ((edgeEvent_build s).trans (allOutputsLow_build s).symm) hout]
  exact outPort_allOutputsLow s

/-- The power is off after an EDGE that turned it off, or after one that was discarded and wrote no line. -/
theorem edgeEvent_darkWhenOff {s : State} (h : s.DarkWhenOff) : (edgeEvent s).DarkWhenOff := by
  intro hp
  rw [edgeEvent_power] at hp
  by_cases ha : edgeAccepted s = true
  · rw [if_pos ha, Bool.not_eq_false'] at hp
    exact edgeEvent_all_low_of_turn_off ha hp
  · rw [if_neg ha] at hp
    rw [outPort_congr (edgeEvent_build s) (by rw [edgeEvent_out, if_neg fun hx => ha hx.1])]
    exact h hp

theorem sampleEvent_darkWhenOff {raw : Nat} {s : State} (h : s.DarkWhenOff) : (sampleEvent raw s).DarkWhenOff := by
  intro hp
  rw [sampleEvent_power] at hp
  rw [sampleEvent_of_off raw hp]
  exact h hp

theorem resetRegisters_darkWhenOff (s : State) : (resetRegisters s).DarkWhenOff := fun _ => outPort_of_all_low rfl

/-- Every operation that applies keeps the lines low while the power is off (R19). -/
theorem effect_darkWhenOff {i : Instr} {s : State} (ha : applies i s) (h : s.DarkWhenOff) : (effect i s).DarkWhenOff :=
  effect_keeps (fun s _ => resetRegisters_darkWhenOff s) (fun _ _ => edgeEvent_darkWhenOff)
    (fun _ => tickEvent_darkWhenOff) (fun _ _ _ _ _ => sampleEvent_darkWhenOff) ha h

/-! ## The registers a variant lacks (R26) -/

theorem State.absentAtReset_iff {s : State} :
    s.AbsentAtReset ↔ (s.build.variant = .a → s.idx = .i0 ∧ s.out.l1 = false ∧ s.out.l2 = false) ∧
      (s.build.variant = .b → s.sum = 0 ∧ s.count = 0) := by
  unfold State.AbsentAtReset
  cases s.build.variant <;> simp

theorem tickEvent_absentAtReset {s : State} (h : s.AbsentAtReset) : (tickEvent s).AbsentAtReset := by
  rw [State.absentAtReset_iff, tickEvent_build, tickEvent_sum, tickEvent_count] at *
  obtain ⟨hA, hB⟩ := h
  refine ⟨fun hv => ?_, hB⟩
  rw [tickEvent_of_a hv]
  exact hA hv

/-- EDGE in variant A lowers line 0 at most, and in variant B it clears the accumulator at most. -/
theorem edgeEvent_absentAtReset {s : State} (h : s.AbsentAtReset) : (edgeEvent s).AbsentAtReset := by
  rw [State.absentAtReset_iff] at *
  rw [edgeEvent_build, edgeEvent_idx, edgeEvent_out, allOutputsLow_eq]
  obtain ⟨hA, hB⟩ := h
  refine ⟨fun hv => ?_, fun hv => ?_⟩
  · obtain ⟨hidx, h1, h2⟩ := hA hv
    rw [hv]
    split
    · exact ⟨hidx, h1, h2⟩
    · exact ⟨hidx, h1, h2⟩
  · have hacc := edgeEvent_accumulator s
    obtain ⟨hsum, hcount⟩ := hB hv
    rw [hsum, hcount, ite_self] at hacc
    exact Prod.mk.inj hacc

theorem sampleEvent_absentAtReset {raw : Nat} {s : State} (hv : s.build.variant = .a) (h : s.AbsentAtReset) :
    (sampleEvent raw s).AbsentAtReset := by
  rw [State.absentAtReset_iff] at *
  obtain ⟨v, c, b, d, hs⟩ := sampleEvent_eq raw s
  rw [hs]
  exact ⟨h.1, fun hvb => nomatch hv.symm.trans hvb⟩

theorem resetRegisters_absentAtReset (s : State) : (resetRegisters s).AbsentAtReset :=
  State.absentAtReset_iff.2 ⟨fun _ => ⟨rfl, rfl, rfl⟩, fun _ => ⟨rfl, rfl⟩⟩

/-- Every operation that applies keeps the registers the variant lacks at their reset value (R26). -/
theorem effect_absentAtReset {i : Instr} {s : State} (ha : applies i s) (h : s.AbsentAtReset) :
    (effect i s).AbsentAtReset :=
  effect_keeps (fun s _ => resetRegisters_absentAtReset s) (fun _ _ => edgeEvent_absentAtReset)
    (fun _ => tickEvent_absentAtReset) (fun _ _ _ hv _ => sampleEvent_absentAtReset hv) ha h

/-! ## The invariant of the whole machine -/

/-- From an accumulator in range every operation that applies leaves one in range, and it draws no free value (R16). -/
theorem effect_accumulatorInRange {i : Instr} {s : State} (ha : applies i s) (h : s.AccumulatorInRange) :
    (effect i s).AccumulatorInRange ∧ (effect i s).draws = s.draws :=
  effect_keeps (P := fun t => t.AccumulatorInRange ∧ t.draws = s.draws)
    (fun _ ⟨hacc, hd⟩ => ⟨.of_empty hacc.one_le_window rfl rfl, hd⟩)
    (fun t _ ⟨hacc, hd⟩ => ⟨edgeEvent_accumulatorInRange hacc, (edgeEvent_draws t).trans hd⟩)
    (fun t ⟨hacc, hd⟩ => ⟨tickEvent_accumulatorInRange hacc, (tickEvent_draws t).trans hd⟩)
    (fun _ _ hb _ hr ⟨hacc, hd⟩ =>
      ⟨sampleEvent_accumulatorInRange hb hr hacc, (sampleEvent_draws_of_inRange hb hr hacc).trans hd⟩)
    ha ⟨h, rfl⟩

theorem effect_inv {i : Instr} {s : State} (ha : applies i s) (h : s.Inv) : (effect i s).Inv where
  build := by rw [effect_build]; exact h.build
  accumulator := (effect_accumulatorInRange ha h.accumulator).1
  dark := effect_darkWhenOff ha h.dark
  absent := effect_absentAtReset ha h.absent

/-- The invariant reads neither `sw_prev` nor the pins to come. -/
theorem takePins_inv {s : State} (h : s.Inv) : (takePins s).Inv :=
  ⟨h.build, h.accumulator, h.dark, h.absent⟩

/-- Settles O52: a clock cycle is the effect of its operation on a state that differs in the pin-level part alone. -/
theorem stepKeepsInv : Obligations.StepKeepsInv := by
  unfold Obligations.StepKeepsInv
  intro s t h hstep
  rw [step_eq] at hstep
  obtain ⟨ha, rfl⟩ := exec_next_iff.1 hstep
  exact effect_inv ha (takePins_inv h)

theorem resetOf_inv {b : Build} (hb : buildValid b = true) : (State.resetOf b).Inv where
  build := hb
  accumulator := by
    obtain ⟨-, hw, -⟩ := buildValid_iff.1 hb
    exact .of_empty hw rfl rfl
  dark := fun _ => outPort_of_all_low rfl
  absent := State.absentAtReset_iff.2 ⟨fun _ => ⟨rfl, rfl, rfl⟩, fun _ => ⟨rfl, rfl⟩⟩

/-- Settles O51: every register is 0 after RESET, and a window has room for a sample. -/
theorem invHoldsAtReset : Obligations.InvHoldsAtReset := by
  unfold Obligations.InvHoldsAtReset
  exact ⟨resetOf_inv hardwareA_valid, fun _ => resetOf_inv⟩

/-- No run writes the build. -/
theorem runOps_build {ops : List Instr} {s t : State} (h : runOps ops s = .next t) : t.build = s.build :=
  runOps_keeps (P := fun u => u.build = s.build) (fun i _ u hu _ => (effect_build i u).trans hu) rfl h

/-- Settles O53: the accumulator stays in range, so that at most 3 samples of at most 1023 are in it and no sample
draws. -/
theorem accumulatorNeverOverflows : Obligations.AccumulatorNeverOverflows := by
  unfold Obligations.AccumulatorNeverOverflows
  intro b ops t hrun hb
  have hbuild : t.build = b := runOps_build hrun
  obtain ⟨⟨hcount, hsum⟩, hdraws⟩ : t.AccumulatorInRange ∧ t.draws = (State.resetOf b).draws :=
    runOps_keeps (P := fun u => u.AccumulatorInRange ∧ u.draws = (State.resetOf b).draws)
      (fun _ _ _ ⟨hacc, hd⟩ ha => (effect_accumulatorInRange ha hacc).imp_right fun h => h.trans hd)
      ⟨(resetOf_inv hb).accumulator, rfl⟩ hrun
  rw [hbuild] at hcount hsum
  obtain ⟨-, -, hwindow, hmax, -⟩ := buildValid_iff.1 hb
  have hfull : t.sum.toNat ≤ 3 * b.rawMax := hsum.trans (Nat.mul_le_mul_right _ (by omega))
  exact ⟨by omega, hsum, by omega, fun raw hr => by omega, hdraws⟩

/-- Settles O54: every operation keeps the lines low while the power is off. -/
theorem linesAreLowWheneverOff : Obligations.LinesAreLowWheneverOff := by
  unfold Obligations.LinesAreLowWheneverOff
  intro b ops t hrun hoff
  have hdark : t.DarkWhenOff := runOps_keeps (fun _ _ _ hu ha => effect_darkWhenOff ha hu)
    (fun _ => outPort_of_all_low rfl) hrun
  have hlow := forall_mem_outPort_iff.1 (hdark hoff)
  rwa [runOps_build hrun] at hlow

/-- Settles O55: every operation keeps the registers the variant lacks at 0. -/
theorem absentRegistersHoldZero : Obligations.AbsentRegistersHoldZero := by
  unfold Obligations.AbsentRegistersHoldZero
  intro b ops t hrun
  have habsent : t.AbsentAtReset := runOps_keeps (fun _ _ _ hu ha => effect_absentAtReset ha hu)
    (resetRegisters_absentAtReset (State.resetOf b)) hrun
  rw [State.absentAtReset_iff, runOps_build hrun] at habsent
  exact habsent

end Sys2Proof.Machine
end

section
/-! The Debounced Toggle in runs (41_debounced_toggle.md R65 to R72, 70_reset_and_hazards.md R131, R137): what decides
an EDGE, what every operation leaves in `power` and `last`, and how far a run can carry the counter past `last`. -/

namespace Sys2Proof.Machine

/-! ## What decides an EDGE -/

/-- In a specified build the test on the elapsed count is the threshold test of R66: the clamp alone never accepts. -/
theorem edgeAccepted_iff_add_le {s : State} (hb : buildValid s.build = true) :
    edgeAccepted s = true ↔ s.last.toNat + s.build.debounce ≤ s.tick.toNat := by
  obtain ⟨hd, -⟩ := buildValid_iff.1 hb
  rw [edgeAccepted_iff]
  omega

theorem edgeEvent_power_of_accepted {s : State} (h : edgeAccepted s = true) : (edgeEvent s).power = !s.power := by
  rw [edgeEvent_power, if_pos h]

theorem edgeEvent_last_of_accepted {s : State} (h : edgeAccepted s = true) : (edgeEvent s).last = s.tick := by
  rw [edgeEvent_last, if_pos (.inl h)]

/-- A plain discard writes nothing (R64). -/
theorem edgeEvent_of_plain_discard {s : State} (hle : s.last.toNat ≤ s.tick.toNat)
    (h : s.tick.toNat < s.last.toNat + s.build.debounce) : edgeEvent s = s := by
  rw [edgeEvent_of_discarded (by omega), if_neg fun hx => hx.1.not_ge hle]

/-- An EDGE with the counter below `last` is a discard that moves `last` to the counter, where the clamp writes
(R62). -/
theorem edgeEvent_of_clamped {s : State} (hb : buildValid s.build = true) (hw : s.build.clampWriteback = true)
    (h : s.tick.toNat < s.last.toNat) : edgeEvent s = setLast s s.tick := by
  obtain ⟨hd, -⟩ := buildValid_iff.1 hb
  rw [edgeEvent_of_discarded (by omega), if_pos ⟨h, hw⟩]

theorem edgeEvent_sum (s : State) :
    (edgeEvent s).sum =
      if edgeAccepted s = true ∧ s.power = true ∧ s.build.accClearOnOff = true then 0 else s.sum := by
  have h := congrArg Prod.fst (edgeEvent_accumulator s)
  rwa [apply_ite Prod.fst] at h

theorem edgeEvent_count (s : State) :
    (edgeEvent s).count =
      if edgeAccepted s = true ∧ s.power = true ∧ s.build.accClearOnOff = true then 0 else s.count := by
  have h := congrArg Prod.snd (edgeEvent_accumulator s)
  rwa [apply_ite Prod.snd] at h

/-- EDGE in one equation from any state, each register by its own rule. -/
theorem edgeEvent_eq_fields (s : State) :
    edgeEvent s =
      { s with
        power := if edgeAccepted s then !s.power else s.power
        last :=
          if edgeAccepted s = true ∨ clampApplies s = true ∧ s.build.clampWriteback = true then s.tick else s.last
        out := if edgeAccepted s = true ∧ s.power = true then (allOutputsLow s).out else s.out
        sum := if edgeAccepted s = true ∧ s.power = true ∧ s.build.accClearOnOff = true then 0 else s.sum
        count := if edgeAccepted s = true ∧ s.power = true ∧ s.build.accClearOnOff = true then 0 else s.count } := by
  rw [← edgeEvent_power, ← edgeEvent_last, ← edgeEvent_out, ← edgeEvent_sum, ← edgeEvent_count]
  obtain ⟨l, p, o, v, c, h⟩ := edgeEvent_eq s
  rw [h]

/-! ## What every operation leaves in `power` and `last` -/

/-- Neither TICK nor SAMPLE writes the power (R13). -/
theorem effect_power (i : Instr) (s : State) :
    (effect i s).power =
      if i = .reset then false else if carriesEdge i = true ∧ edgeAccepted s = true then !s.power else s.power := by
  cases i with
  | reset => rfl
  | edge | edgeSample | edgeTick | edgeTickSample => simp [effect, carriesEdge, edgeEvent_power]
  | idle | sample | tick | tickSample => simp [effect, carriesEdge]

/-- Neither TICK nor SAMPLE writes `last` (R12). -/
theorem effect_last (i : Instr) (s : State) :
    (effect i s).last =
      if i = .reset then 0
      else if carriesEdge i = true ∧
          (edgeAccepted s = true ∨ clampApplies s = true ∧ s.build.clampWriteback = true) then s.tick
      else s.last := by
  cases i with
  | reset => rfl
  | edge | edgeSample | edgeTick | edgeTickSample => simp [effect, carriesEdge, edgeEvent_last]
  | idle | sample | tick | tickSample => simp [effect, carriesEdge]

/-- Settles O9: of the events only EDGE writes `power`, and only when it accepts. -/
theorem powerFlipsOnlyOnAcceptedEdge : Obligations.PowerFlipsOnlyOnAcceptedEdge := by
  unfold Obligations.PowerFlipsOnlyOnAcceptedEdge
  intro i s t h
  obtain ⟨⟨hb, -⟩, rfl⟩ := exec_next_iff.1 h
  simp only [effect_power, edgeAccepted_iff_add_le hb]

/-- Settles O10: of the events only EDGE writes `last`, by its acceptance or by the clamp's write. -/
theorem lastIsWrittenOnlyByEdge : Obligations.LastIsWrittenOnlyByEdge := by
  unfold Obligations.LastIsWrittenOnlyByEdge
  intro i s t h
  obtain ⟨⟨hb, -⟩, rfl⟩ := exec_next_iff.1 h
  simp only [effect_last, edgeAccepted_iff_add_le hb, clampApplies_iff]

/-! ## One EDGE -/

/-- Settles O8: the counter has reached the threshold, or has reached `last` alone, or is below `last`. -/
theorem edgeHasThreeOutcomes : Obligations.EdgeHasThreeOutcomes := by
  unfold Obligations.EdgeHasThreeOutcomes
  intro s hb hw
  refine ⟨_, exec_edge_of_valid hb, ?_, fun h => ?_, edgeEvent_of_plain_discard, edgeEvent_of_clamped hb hw⟩
  · rw [edgeEvent_last, edgeEvent_tick]
    split
    · exact le_rfl
    · rename_i h
      rw [clampApplies_iff, not_or] at h
      exact Nat.le_of_not_lt fun hlt => h.2 ⟨hlt, hw⟩
  · have ha := (edgeAccepted_iff_add_le hb).2 h
    exact ⟨edgeEvent_power_of_accepted ha, edgeEvent_last_of_accepted ha, edgeEvent_tick s⟩

/-- Settles O16: an acceptance writes the lines only when the power was on. -/
theorem turningOnIsDarkAndOffIsImmediate : Obligations.TurningOnIsDarkAndOffIsImmediate := by
  unfold Obligations.TurningOnIsDarkAndOffIsImmediate
  intro s hb h
  have ha := (edgeAccepted_iff_add_le hb).2 h
  have hpower := edgeEvent_power_of_accepted ha
  refine ⟨fun hp hdark => ?_, fun hp => ?_⟩ <;> rw [hp] at hpower
  · have hout : (edgeEvent s).out = s.out := by simp [edgeEvent_out, hp]
    refine ⟨_, exec_edge_of_valid hb, hpower, hout, ?_⟩
    rw [outPort_congr (edgeEvent_build s) hout]
    exact hdark hp
  · exact ⟨_, exec_edge_of_valid hb, hpower, edgeEvent_all_low_of_turn_off ha hp⟩

/-- Settles O59: `tick` and `last` reach `power`, the lines and the accumulator through the acceptance test alone. -/
theorem edgeDependsOnlyOnTheThreshold : Obligations.EdgeDependsOnlyOnTheThreshold := by
  unfold Obligations.EdgeDependsOnlyOnTheThreshold
  intro s t u v l hthreshold ht hu
  obtain ⟨⟨hb, -⟩, rfl⟩ := exec_next_iff.1 ht
  obtain ⟨-, rfl⟩ := exec_next_iff.1 hu
  have haccepted : edgeAccepted { s with tick := v, last := l } = edgeAccepted s := by
    rw [Bool.eq_iff_iff, edgeAccepted_iff_add_le hb, hthreshold]
    exact edgeAccepted_iff_add_le (s := { s with tick := v, last := l }) hb
  simp only [effect, edgeEvent_eq_fields, haccepted, allOutputsLow_eq]

/-! ## Runs of TICKs that end with an EDGE -/

/-- `DEBOUNCE` or more ticks after `last` was set to the counter, and before the counter wraps, an EDGE is accepted
(R67). -/
theorem edgeAccepted_tickEvent_iterate {n : Nat} {s : State} (hb : buildValid s.build = true) (hlast : s.last = s.tick)
    (hn : s.build.debounce ≤ n) (hwrap : s.tick.toNat + n ≤ 255) : edgeAccepted (tickEvent^[n] s) = true := by
  obtain ⟨i, o, hrun⟩ := tickEvent_iterate_eq n s
  rw [edgeAccepted_iff_add_le (by rwa [hrun]), hrun, hlast, BitVec.toNat_add, BitVec.toNat_ofNat]
  dsimp only
  omega

theorem tickEvent_iterate_power (n : Nat) (s : State) : (tickEvent^[n] s).power = s.power := by
  obtain ⟨i, o, hrun⟩ := tickEvent_iterate_eq n s
  rw [hrun]

theorem toNat_tickWord_add_one {v : TickWord} (h : v.toNat < 255) : (v + 1).toNat = v.toNat + 1 := by
  rw [BitVec.toNat_add]
  exact Nat.mod_eq_of_lt (Nat.succ_lt_succ h)

/-- Settles O13: the EDGE after one tick is a plain discard, and the one after two ticks is at the threshold. -/
theorem longBounceTrainTogglesAgain : Obligations.LongBounceTrainTogglesAgain := by
  unfold Obligations.LongBounceTrainTogglesAgain
  intro s hb hd hlast htick
  have hfirst : edgeEvent (tickEvent s) = tickEvent s := by
    apply edgeEvent_of_plain_discard <;> rw [tickEvent_tick, tickEvent_last, toNat_tickWord_add_one (by omega), hlast]
    · omega
    · rw [tickEvent_build, hd]
      omega
  refine ⟨tickEvent s, _, ?_, tickEvent_power s, tickEvent_last s,
    runOps_replicate_tick_edge 1 (by rwa [tickEvent_build]), ?_⟩
  · rw [← hfirst]
    exact runOps_replicate_tick_edge 1 hb
  · have ha : edgeAccepted (tickEvent^[2] s) = true :=
      edgeAccepted_tickEvent_iterate hb hlast hd.le (by omega)
    exact (edgeEvent_power_of_accepted ha).trans (congrArg _ (tickEvent_iterate_power 2 s))

/-- Settles O18: the release comes `DEBOUNCE` or more ticks after the press wrote `last`. -/
theorem pressAndReleaseRestorePower : Obligations.PressAndReleaseRestorePower := by
  unfold Obligations.PressAndReleaseRestorePower
  intro n s hb h hn hwrap
  have hpress := (edgeAccepted_iff_add_le hb).2 h
  have hb' : buildValid (edgeEvent s).build = true := by rwa [edgeEvent_build]
  have hrelease : edgeAccepted (tickEvent^[n] (edgeEvent s)) = true :=
    edgeAccepted_tickEvent_iterate hb' ((edgeEvent_last_of_accepted hpress).trans (edgeEvent_tick s).symm)
      (by rwa [edgeEvent_build]) (by rwa [edgeEvent_tick])
  have hheld : (tickEvent^[n] (edgeEvent s)).power = !s.power := by
    rw [tickEvent_iterate_power, edgeEvent_power_of_accepted hpress]
  refine ⟨_, _, exec_edge_of_valid hb, edgeEvent_power_of_accepted hpress, runOps_replicate_tick_edge n hb', ?_,
    fun hp => edgeEvent_all_low_of_turn_off hrelease (by rw [hheld, hp]; rfl)⟩
  rw [edgeEvent_power_of_accepted hrelease, hheld, Bool.not_not]

/-! ## Any run without RESET -/

/-- A run without RESET advances the counter by its TICK events, whatever else it holds (R57). -/
theorem runOps_tick {ops : List Instr} {s t : State} (hops : ∀ i ∈ ops, i ≠ .reset) (h : runOps ops s = .next t) :
    t.tick = s.tick + BitVec.ofNat 8 (tickTotal ops) := by
  induction ops generalizing s with
  | nil =>
    cases h
    simp [tickTotal]
  | cons i is ih =>
    obtain ⟨u, hu, ht⟩ := runOps_cons_next.1 h
    obtain ⟨-, rfl⟩ := exec_next_iff.1 hu
    obtain ⟨hi, his⟩ := List.forall_mem_cons.1 hops
    rw [ih his ht, effect_tick, if_neg hi, tickTotal, BitVec.ofNat_add, ← BitVec.add_assoc]
    split <;> simp

/-- An operation carries the elapsed count up by its TICK at most: EDGE can only bring `last` closer to the counter,
and the counter's wrap brings the count to 0 (R63). -/
theorem elapsedTicks_effect_le {i : Instr} (s : State) (hi : i ≠ .reset) :
    elapsedTicks (effect i s) ≤ elapsedTicks s + if carriesTick i = true then 1 else 0 := by
  have hlast : (effect i s).last = s.tick ∨ (effect i s).last = s.last := by
    rw [effect_last, if_neg hi]
    exact ite_eq_or_eq ..
  have htick : (s.tick + 1).toNat ≤ s.tick.toNat + 1 := by
    rw [BitVec.toNat_add]
    exact Nat.mod_le ..
  rw [elapsedTicks_eq, elapsedTicks_eq, effect_tick, if_neg hi]
  obtain hlast | hlast := hlast <;> rw [hlast] <;> split <;> omega

/-- While the elapsed count and the TICKs to come stay below `DEBOUNCE`, every EDGE of the run is discarded; where
`last` is 0 the clamp has nothing to write either (R68, R131). -/
theorem runOps_of_elapsed_add_ticks_lt {ops : List Instr} {s t : State} (hops : ∀ i ∈ ops, i ≠ .reset)
    (hlt : elapsedTicks s + tickTotal ops < s.build.debounce) (h : runOps ops s = .next t) :
    t.power = s.power ∧ (s.last = 0 → t.last = 0) := by
  induction ops generalizing s with
  | nil =>
    cases h
    exact ⟨rfl, id⟩
  | cons i is ih =>
    obtain ⟨u, hu, ht⟩ := runOps_cons_next.1 h
    obtain ⟨-, rfl⟩ := exec_next_iff.1 hu
    obtain ⟨hi, his⟩ := List.forall_mem_cons.1 hops
    have hdiscarded : ¬ edgeAccepted s = true := by
      rw [edgeAccepted, decide_eq_true_eq]
      omega
    have helapsed := elapsedTicks_effect_le s hi
    rw [tickTotal] at hlt
    obtain ⟨hpower, hlast⟩ := ih his (by rw [effect_build]; omega) ht
    refine ⟨by rw [hpower, effect_power, if_neg hi, if_neg fun hx => hdiscarded hx.2], fun hzero => hlast ?_⟩
    rw [effect_last, if_neg hi, if_neg, hzero]
    rw [clampApplies_iff, hzero]
    rintro ⟨-, hx | ⟨hx, -⟩⟩
    · exact hdiscarded hx
    · exact Nat.not_lt_zero _ hx

/-- Settles O12: right after the EDGE the elapsed count is 0, and the run's TICKs do not bring it to the threshold. -/
theorem bounceBurstNeverToggles : Obligations.BounceBurstNeverToggles := by
  unfold Obligations.BounceBurstNeverToggles
  intro s t ops hlast hops hticks hrun
  have helapsed : elapsedTicks s = 0 := by rw [elapsedTicks_eq, hlast, Nat.sub_self]
  exact (runOps_of_elapsed_add_ticks_lt hops (by omega) hrun).1

/-- Settles O11: the counter stands at `L + n mod 256`, past `L` by `n mod 256` or, once it has passed 255, below
`L`. -/
theorem wrapAcceptanceWindow : Obligations.WrapAcceptanceWindow := by
  unfold Obligations.WrapAcceptanceWindow
  intro s u ops hb hlast hops hrun hkept
  have hbuild : u.build = s.build := runOps_build hrun
  have hbu : buildValid u.build = true := by rwa [hbuild]
  obtain ⟨hd, -⟩ := buildValid_iff.1 hb
  have htick : u.tick.toNat = (s.last.toNat + tickTotal ops) % 256 := by
    rw [runOps_tick hops hrun, ← hlast, BitVec.toNat_add, BitVec.toNat_ofNat]
    omega
  have haccepted : edgeAccepted u = true ↔
      s.build.debounce ≤ tickTotal ops % 256 ∧ tickTotal ops % 256 ≤ 255 - s.last.toNat := by
    rw [edgeAccepted_iff_add_le hbu, hbuild, hkept, htick]
    omega
  have hdiscarded (h : ¬ edgeAccepted u = true) : (edgeEvent u).power = u.power := by rw [edgeEvent_power, if_neg h]
  refine ⟨_, exec_edge_of_valid hbu, ?_, fun h => hdiscarded ?_, fun hwrap hw => ⟨?_, fun m hm hm' => ?_⟩,
    fun h => hdiscarded ?_⟩
  · rw [← haccepted, edgeEvent_power]
    cases edgeAccepted u <;> simp
  · rw [haccepted]
    have := Nat.mod_le (tickTotal ops) 256
    omega
  · exact edgeEvent_of_clamped hbu (by rwa [hbuild]) (by rw [hkept]; omega)
  · rw [edgeEvent_of_clamped hbu (by rwa [hbuild]) (by rw [hkept]; omega)]
    have hafter : edgeAccepted (tickEvent^[m] (setLast u u.tick)) = true :=
      edgeAccepted_tickEvent_iterate hbu rfl (by rwa [setLast_build, hbuild]) hm'
    obtain ⟨i, o, hm⟩ := tickEvent_iterate_eq m (setLast u u.tick)
    exact ⟨_, _, runOps_replicate_tick m hbu, exec_edge_of_valid (by rwa [hm]), edgeEvent_power_of_accepted hafter⟩
  · rw [haccepted]
    omega

/-- Settles O14: RESET leaves `last` and the counter at 0, so that the run's TICKs are the elapsed count. -/
theorem deadWindowAfterReset : Obligations.DeadWindowAfterReset := by
  unfold Obligations.DeadWindowAfterReset
  refine ⟨rfl, rfl, fun b u ops hb hops hrun => ?_⟩
  have hbuild : u.build = b := runOps_build hrun
  have hbu : buildValid u.build = true := by rwa [hbuild]
  have hdead (h : tickTotal ops < b.debounce) : u.power = false ∧ u.last = 0 := by
    have helapsed : elapsedTicks (State.resetOf b) = 0 := rfl
    obtain ⟨hpower, hlast⟩ := runOps_of_elapsed_add_ticks_lt hops (by rwa [helapsed, Nat.zero_add]) hrun
    exact ⟨hpower, hlast rfl⟩
  have htick : u.tick.toNat = tickTotal ops % 256 := by
    rw [runOps_tick hops hrun]
    exact (congrArg BitVec.toNat (BitVec.zero_add _)).trans (BitVec.toNat_ofNat ..)
  refine ⟨fun h => ?_, fun h hd => ?_⟩
  · obtain ⟨-, hlast⟩ := hdead h
    have hle := Nat.mod_le (tickTotal ops) 256
    have hplain : edgeEvent u = u := by
      apply edgeEvent_of_plain_discard <;> rw [hlast, htick]
      · exact Nat.zero_le _
      · rw [hbuild]
        exact (hle.trans_lt h).trans_le (Nat.le_add_left ..)
    rw [exec_edge_of_valid hbu, hplain]
  · obtain ⟨hpower, hlast⟩ := hdead (by omega)
    refine ⟨_, runOps_replicate_tick_edge 1 hbu, ?_⟩
    have ha : edgeAccepted (tickEvent u) = true := by
      rw [edgeAccepted_iff_add_le (by rwa [tickEvent_build]), tickEvent_build, tickEvent_tick, tickEvent_last, hlast,
        hbuild, toNat_tickWord_add_one (by omega), htick, Nat.mod_eq_of_lt (by omega), h]
      exact (Nat.zero_add _).le
    exact (edgeEvent_power_of_accepted ha).trans (by rw [tickEvent_power, hpower]; rfl)

/-! ## The clamp that does not write (R72) -/

/-- With `last` above `255 - DEBOUNCE` no count of 8 bits reaches the threshold, so that only the clamp's write could
free the switch. -/
theorem effect_of_locked {i : Instr} {s : State} (ha : applies i s) (hi : i ≠ .reset)
    (hw : s.build.clampWriteback = false) (hlock : 255 < s.last.toNat + s.build.debounce) :
    (effect i s).power = s.power ∧ (effect i s).last = s.last := by
  obtain ⟨hb, -⟩ := ha
  have hdiscarded : ¬ edgeAccepted s = true := by
    rw [edgeAccepted_iff_add_le hb]
    omega
  rw [effect_power, effect_last, if_neg hi, if_neg hi]
  simp [hdiscarded, hw]

/-- Settles O15: a discard writes nothing, a lock lasts, and the readings of one EDGE meet in all but `last`. -/
theorem unwrittenClampLocksTheSwitch : Obligations.UnwrittenClampLocksTheSwitch := by
  unfold Obligations.UnwrittenClampLocksTheSwitch
  refine ⟨fun s hb hw h => ?_, fun s t ops hw hlock hops hrun => ?_, fun s t u x y ht hu => ?_⟩
  · obtain ⟨hd, -⟩ := buildValid_iff.1 hb
    rw [exec_edge_of_valid hb, edgeEvent_of_discarded (by omega), hw]
    simp
  · obtain ⟨-, hkept⟩ : t.build = s.build ∧ t.power = s.power ∧ t.last = s.last := by
      refine runOps_keeps (P := fun v => v.build = s.build ∧ v.power = s.power ∧ v.last = s.last)
        (fun i hi v ⟨hbuild, hpower, hlast⟩ ha => ?_) ⟨rfl, rfl, rfl⟩ hrun
      obtain ⟨hp, hl⟩ := effect_of_locked ha (hops i hi) (by rwa [hbuild]) (by rwa [hbuild, hlast])
      exact ⟨(effect_build i v).trans hbuild, hp.trans hpower, hl.trans hlast⟩
    exact hkept
  · obtain ⟨⟨hb, -⟩, rfl⟩ := exec_next_iff.1 ht
    obtain ⟨-, rfl⟩ := exec_next_iff.1 hu
    simp only [effect, edgeEvent_power, edgeEvent_out, edgeEvent_last, allOutputsLow_eq]
    refine ⟨rfl, rfl, ?_⟩
    rintro hbelow rfl rfl
    refine ⟨if_pos (.inr ⟨(clampApplies_iff s).2 hbelow, rfl⟩), if_neg ?_⟩
    rintro (h | ⟨-, h⟩)
    · have hreached := (edgeAccepted_iff s).1 h
      obtain ⟨hd, -⟩ := buildValid_iff.1 hb
      dsimp only at hd
      omega
    · cases h

end Sys2Proof.Machine
end

section
/-! Windows of samples (42_hysteresis_driver.md R79 to R83, 70_reset_and_hazards.md R138): the decision by where the
average lies, a whole window as a run, and what moves the line of variant A. -/

namespace Sys2Proof.Machine

/-! ## One sample -/

theorem decideOutput_of_above {s : State} {avg : Nat} (h : s.build.high < avg) :
    decideOutput s avg = setOutput s .l0 true := if_pos h

theorem decideOutput_of_below {s : State} {avg : Nat} (hb : buildValid s.build = true) (h : avg < s.build.low) :
    decideOutput s avg = setOutput s .l0 false := by
  obtain ⟨-, -, -, -, -, hband, -⟩ := buildValid_iff.1 hb
  rw [decideOutput, if_neg (h.trans_le hband).not_gt, if_pos h]

/-- Inside the band the decision is to leave the line as it is (R79). -/
theorem decideOutput_of_band {s : State} {avg : Nat} (hlow : s.build.low ≤ avg) (hhigh : avg ≤ s.build.high) :
    decideOutput s avg = s := by
  rw [decideOutput, if_neg hhigh.not_gt, if_neg hlow.not_gt]

theorem setAccumulator_of_empty {s : State} (hsum : s.sum = 0) (hcount : s.count = 0) : setAccumulator s 0 0 = s := by
  rw [← hsum, ← hcount]
  rfl

theorem storeAccumulator_of_not_fits {s : State} {total c : Nat} (h : 4096 ≤ total) :
    storeAccumulator s total c = countDraw (setAccumulator s (Config.freeSum s.draws) (BitVec.ofNat 2 c)) :=
  if_neg h.not_gt

/-- Settles O21: the branch of the store for a total of 4096 or more. -/
theorem sumThatDoesNotFitIsFree : Obligations.SumThatDoesNotFitIsFree := by
  unfold Obligations.SumThatDoesNotFitIsFree
  intro raw s hb hv hr hp hc hsum
  rw [exec_sample_of_valid hb hv hr, sampleEvent_of_partial hp hc, storeAccumulator_of_not_fits hsum]
  rfl

/-- Settles O22: with `WINDOW = 4` the average is above 300, below 200 or between them as the sum is. -/
theorem windowDecisionBySum : Obligations.WindowDecisionBySum := by
  unfold Obligations.WindowDecisionBySum
  intro raw s hbuild hr hp hacc hcount
  have hb : buildValid s.build = true := by rw [hbuild]; exact hardwareA_valid
  have hwindow : s.build.window = 4 := by rw [hbuild]; rfl
  have hhigh : s.build.high = 300 := by rw [hbuild]; rfl
  have hlow : s.build.low = 200 := by rw [hbuild]; rfl
  have hmax : s.build.rawMax = 1023 := by rw [hbuild]; rfl
  have hsum := hacc.2
  have hexec := exec_sample_of_valid hb (by rw [hbuild]; rfl) (hr.trans hmax.ge)
  rw [sampleEvent_of_count_add_one_eq_window hp (by rw [hcount, hwindow]), hwindow] at hexec
  rw [hcount, hmax] at hsum
  refine ⟨by omega, ?_, fun h => ?_, fun h => ?_, fun h h' => ?_⟩
  · rw [BitVec.extractLsb'_toNat, BitVec.toNat_ofNat, Nat.shiftRight_eq_div_pow]
    omega
  · rw [hexec, decideOutput_of_above (by omega)]
    rfl
  · rw [hexec, decideOutput_of_below hb (by omega)]
    rfl
  · rw [hexec, decideOutput_of_band (by omega) (by omega)]
    rfl

/-- An operation without an operand asks for a specified build alone. -/
theorem exec_of_rawOperand_none {i : Instr} (h : i.rawOperand = none) (s : State) :
    exec i s = onBuild s (effect i) := by
  cases i with
  | sample | tickSample | edgeSample | edgeTickSample => cases h
  | reset | idle | tick | edge | edgeTick => rfl

/-- An operation with an operand asks for the sample port too (R45, R75). -/
theorem exec_of_rawOperand_some {i : Instr} {raw : Nat} (h : i.rawOperand = some raw) (s : State) :
    exec i s = onSamplePort s raw (effect i) := by
  cases i with
  | sample | tickSample | edgeSample | edgeTickSample =>
    cases h
    rfl
  | reset | idle | tick | edge | edgeTick => cases h

/-- In variant A a sample event with an operand above `RAW_MAX` is refused as a whole (R75). -/
theorem exec_of_rawMax_lt {i : Instr} {raw : Nat} {s : State} (hb : buildValid s.build = true)
    (hv : s.build.variant = .a) (hi : i.rawOperand = some raw) (hr : s.build.rawMax < raw) :
    exec i s = .refused .rawOutOfRange := by
  simp [exec_of_rawOperand_some hi, onSamplePort, rawInRange, hb, hv, hr]

/-- Settles O36: the range test stands before every sample event. -/
theorem outOfRangeSampleIsRefused : Obligations.OutOfRangeSampleIsRefused := by
  unfold Obligations.OutOfRangeSampleIsRefused
  exact fun _ _ _ => exec_of_rawMax_lt

/-! ## A window as a run -/

/-- A run that answers hands its state to the operations after it. -/
theorem runOps_append_of_next {is js : List Instr} {s u : State} (h : runOps is s = .next u) :
    runOps (is ++ js) s = runOps js u := by
  induction is generalizing s with
  | nil =>
    cases h
    rfl
  | cons i is ih =>
    obtain ⟨t, ht, hu⟩ := runOps_cons_next.1 h
    rw [List.cons_append, runOps_cons_of_next ht, ih hu]

/-- The samples that complete a window make one decision, on the window's sum, and empty the accumulator (R82). -/
theorem runOps_samples_of_window {raws : List Nat} {s : State} (hb : buildValid s.build = true)
    (hv : s.build.variant = .a) (hp : s.power = true) (hacc : s.AccumulatorInRange)
    (hlen : s.count.toNat + raws.length = s.build.window) (hr : ∀ r ∈ raws, r ≤ s.build.rawMax) :
    runOps (raws.map .sample) s =
      .next (setAccumulator (decideOutput s ((s.sum.toNat + raws.sum) / s.build.window)) 0 0) := by
  induction raws generalizing s with
  | nil =>
    have hroom := hacc.1
    rw [← hlen] at hroom
    exact absurd hroom (Nat.not_succ_le_self _)
  | cons r rs ih =>
    obtain ⟨hr, hrs⟩ := List.forall_mem_cons.1 hr
    rw [List.length_cons] at hlen
    rw [List.map_cons, runOps_cons_of_next (exec_sample_of_valid hb hv hr), List.sum_cons]
    by_cases hc : s.count.toNat + 1 < s.build.window
    · have hfit := hacc.sum_add_lt hb hr
      have hkept := sampleEvent_accumulatorInRange hb hr hacc
      obtain ⟨-, -, hwindow, -⟩ := buildValid_iff.1 hb
      have hcount : (BitVec.ofNat 2 (s.count.toNat + 1)).toNat = s.count.toNat + 1 :=
        (BitVec.toNat_ofNat ..).trans (Nat.mod_eq_of_lt (by omega))
      have hsum : (BitVec.ofNat 12 (s.sum.toNat + r)).toNat = s.sum.toNat + r :=
        (BitVec.toNat_ofNat ..).trans (Nat.mod_eq_of_lt hfit)
      rw [sampleEvent_of_partial_of_fits hp hc hfit] at hkept ⊢
      have hrest := ih (by exact hb) (by exact hv) (by exact hp) hkept
        (by rw [setAccumulator_count, setAccumulator_build, hcount]; omega) (by exact hrs)
      rw [hrest, setAccumulator_sum, setAccumulator_build, hsum, Nat.add_assoc, decideOutput_eq, decideOutput_eq]
      rfl
    · have hfull : s.count.toNat + 1 = s.build.window := by have := hacc.1; omega
      obtain rfl : rs = [] := List.eq_nil_of_length_eq_zero (by omega)
      rw [sampleEvent_of_count_add_one_eq_window hp hfull]
      rfl

/-- From an empty accumulator the decision is on the window's own average. -/
theorem runOps_samples_of_empty {raws : List Nat} {s : State} (hb : buildValid s.build = true)
    (hv : s.build.variant = .a) (hp : s.power = true) (hsum : s.sum = 0) (hcount : s.count = 0)
    (hlen : raws.length = s.build.window) (hr : ∀ r ∈ raws, r ≤ s.build.rawMax) :
    runOps (raws.map .sample) s = .next (decideOutput s (raws.sum / s.build.window)) := by
  obtain ⟨-, hw, -⟩ := buildValid_iff.1 hb
  have hzero : s.sum.toNat + raws.sum = raws.sum := by rw [hsum]; exact Nat.zero_add _
  rw [runOps_samples_of_window hb hv hp (.of_empty hw hsum hcount) (by rw [hcount]; exact (Nat.zero_add _).trans hlen)
    hr, hzero, setAccumulator_of_empty (by rw [decideOutput_eq, hsum]) (by rw [decideOutput_eq, hcount])]

/-- Settles O23: the decision in the terms of the rule. -/
theorem windowOfSamplesDecidesOnItsAverage : Obligations.WindowOfSamplesDecidesOnItsAverage := by
  unfold Obligations.WindowOfSamplesDecidesOnItsAverage
  intro s raws hb hv hp hsum hcount hlen hr
  rw [runOps_samples_of_empty hb hv hp hsum hcount hlen hr, decideOutput_eq]

/-- Settles O24: each window in the band leaves the state as it found it. -/
theorem hysteresisBandHoldsTheOutput : Obligations.HysteresisBandHoldsTheOutput := by
  unfold Obligations.HysteresisBandHoldsTheOutput
  intro s windows hb hv hp hsum hcount hwindows
  induction windows with
  | nil => rfl
  | cons raws windows ih =>
    obtain ⟨⟨hlen, hr, hlow, hhigh⟩, hwindows⟩ := List.forall_mem_cons.1 hwindows
    have hfirst := runOps_samples_of_empty hb hv hp hsum hcount hlen hr
    rw [decideOutput_of_band hlow hhigh] at hfirst
    rw [List.flatten_cons, List.map_append, runOps_append_of_next hfirst]
    exact ih hwindows

/-! ## What moves the line of variant A -/

/-- An operation with an operand is its sample event after its EDGE and TICK events (R97). -/
theorem effect_of_rawOperand_some {i : Instr} {raw : Nat} (h : i.rawOperand = some raw) (s : State) :
    effect i s = sampleEvent raw (cycle (carriesEdge i) (carriesTick i) none s) := by
  cases i with
  | sample | tickSample | edgeSample | edgeTickSample =>
    cases h
    rfl
  | reset | idle | tick | edge | edgeTick => cases h

/-- An operation without an operand that is not RESET is its EDGE and TICK events (R97). -/
theorem effect_of_rawOperand_none {i : Instr} (hi : i ≠ .reset) (h : i.rawOperand = none) (s : State) :
    effect i s = cycle (carriesEdge i) (carriesTick i) none s := by
  cases i with
  | sample | tickSample | edgeSample | edgeTickSample => cases h
  | reset => exact absurd rfl hi
  | idle | tick | edge | edgeTick => rfl

/-- In variant A a TICK event in front of a sample event counts and does nothing else. -/
theorem cycle_none_of_a {s : State} (hv : s.build.variant = .a) (e t : Bool) :
    ∃ v, cycle e t none s = setTick (if e = true then edgeEvent s else s) v := by
  have hve : (if e = true then edgeEvent s else s).build.variant = .a := by split <;> simp [hv]
  cases t with
  | false => exact ⟨_, rfl⟩
  | true => exact ⟨_, tickEvent_of_a hve⟩

/-- While the power is on after an EDGE, the EDGE has not cleared the accumulator (R81). -/
theorem edgeEvent_accumulator_of_on {s : State} (h : (edgeEvent s).power = true) :
    (edgeEvent s).sum = s.sum ∧ (edgeEvent s).count = s.count := by
  rw [edgeEvent_sum, edgeEvent_count]
  have hcleared : ¬ (edgeAccepted s = true ∧ s.power = true ∧ s.build.accClearOnOff = true) := by
    rintro ⟨ha, hp, -⟩
    rw [edgeEvent_power_of_accepted ha, hp] at h
    cases h
  exact ⟨if_neg hcleared, if_neg hcleared⟩

/-- In variant A the events before a sample event change the line only by turning the power off, and keep the
accumulator wherever they leave the power on. -/
theorem cycle_none_of_a_fields {s : State} (hv : s.build.variant = .a) (e t : Bool) :
    let c := cycle e t none s
    c.build = s.build ∧
      (c.out.l0 = s.out.l0 ∨ c.out.l0 = false ∧ e = true ∧ edgeAccepted s = true ∧ s.power = true) ∧
      (c.power = true → c.sum = s.sum ∧ c.count = s.count) := by
  obtain ⟨v, hc⟩ := cycle_none_of_a hv e t
  rw [hc]
  cases e with
  | false => exact ⟨rfl, .inl rfl, fun _ => ⟨rfl, rfl⟩⟩
  | true =>
    refine ⟨edgeEvent_build s, ?_, edgeEvent_accumulator_of_on⟩
    have hout := edgeEvent_out s
    split at hout <;> rename_i h
    · rw [allOutputsLow_eq, hv] at hout
      exact .inr ⟨congrArg Lines.l0 hout, rfl, h⟩
    · exact .inl (congrArg Lines.l0 hout)

/-- SAMPLE moves the line only with a full window while on, up when its average is above `HIGH` and down when it is
below `LOW` (R79). -/
theorem sampleEvent_out_l0_of_ne {raw : Nat} {s : State} (h : (sampleEvent raw s).out.l0 ≠ s.out.l0) :
    s.power = true ∧ s.build.window ≤ s.count.toNat + 1 ∧
      (s.out.l0 = false → s.build.high < (s.sum.toNat + raw) / (s.count.toNat + 1)) ∧
      (s.out.l0 = true → (s.sum.toNat + raw) / (s.count.toNat + 1) < s.build.low) := by
  cases hp : s.power with
  | false => rw [sampleEvent_of_off raw hp] at h; exact absurd rfl h
  | true =>
    by_cases hc : s.count.toNat + 1 < s.build.window
    · obtain ⟨v, d, hs⟩ := storeAccumulator_eq s (s.sum.toNat + raw) (s.count.toNat + 1)
      rw [sampleEvent_of_partial hp hc, hs] at h
      exact absurd rfl h
    · rw [sampleEvent_of_full hp (Nat.le_of_not_lt hc), decideOutput_eq] at h
      refine ⟨rfl, Nat.le_of_not_lt hc, fun h0 => ?_, fun h1 => ?_⟩ <;> by_contra hno <;> revert h
      · simp [h0, hno]
      · simp [h1, hno]

/-- Settles O25: an operation moves the line by its EDGE, or by its sample on the accumulator the EDGE has kept. -/
theorem lampChangesOnlyForItsCauses : Obligations.LampChangesOnlyForItsCauses := by
  unfold Obligations.LampChangesOnlyForItsCauses
  intro i s t hv hacc h
  obtain ⟨⟨hb, -⟩, rfl⟩ := exec_next_iff.1 h
  by_cases hi : i = .reset
  · subst hi
    exact ⟨fun _ h1 => absurd h1 Bool.false_ne_true, fun _ _ => .inl rfl⟩
  obtain ⟨hbuild, hline, hkept⟩ := cycle_none_of_a_fields hv (carriesEdge i) (carriesTick i)
  rw [edgeAccepted_iff_add_le hb] at hline
  cases hraw : i.rawOperand with
  | none =>
    rw [effect_of_rawOperand_none hi hraw]
    refine ⟨fun h0 h1 => ?_, fun h1 h0 => .inr (.inl ?_)⟩ <;> obtain hsame | ⟨hlow, he, hthreshold, hp⟩ := hline
    · exact absurd ((hsame.trans h0).symm.trans h1) Bool.false_ne_true
    · exact absurd (hlow.symm.trans h1) Bool.false_ne_true
    · exact absurd (h0.symm.trans (hsame.trans h1)) Bool.false_ne_true
    · exact ⟨he, hp, hthreshold⟩
  | some raw =>
    rw [effect_of_rawOperand_some hraw]
    generalize cycle (carriesEdge i) (carriesTick i) none s = c at hbuild hline hkept
    have hsample (hne : (sampleEvent raw c).out.l0 ≠ c.out.l0) : s.count.toNat + 1 = s.build.window ∧
        (c.out.l0 = false → s.build.high < (s.sum.toNat + raw) / s.build.window) ∧
        (c.out.l0 = true → (s.sum.toNat + raw) / s.build.window < s.build.low) := by
      obtain ⟨hon, hfull, hrise, hfall⟩ := sampleEvent_out_l0_of_ne hne
      obtain ⟨hsum, hcount⟩ := hkept hon
      rw [hbuild, hcount] at hfull
      have hwindow := Nat.le_antisymm hacc.1 hfull
      rw [hbuild, hsum, hcount, hwindow] at hrise hfall
      exact ⟨hwindow, hrise, hfall⟩
    refine ⟨fun h0 h1 => ⟨raw, rfl, ?_⟩, fun h1 h0 => .inr ?_⟩ <;> obtain hsame | ⟨hlow, he, hthreshold, hp⟩ := hline
    · have hc0 := hsame.trans h0
      obtain ⟨hwindow, hrise, -⟩ := hsample (by rw [h1, hc0]; decide)
      exact ⟨hwindow, hrise hc0⟩
    · obtain ⟨hwindow, hrise, -⟩ := hsample (by rw [h1, hlow]; decide)
      exact ⟨hwindow, hrise hlow⟩
    · have hc1 := hsame.trans h1
      obtain ⟨hwindow, -, hfall⟩ := hsample (by rw [h0, hc1]; decide)
      exact .inr ⟨raw, rfl, hwindow, hfall hc1⟩
    · exact .inl ⟨he, hp, hthreshold⟩

/-! ## The accumulator across a power-off -/

/-- While off, a run of TICKs only counts (R55, R87). -/
theorem tickEvent_iterate_of_off (n : Nat) {s : State} (hp : s.power = false) :
    tickEvent^[n] s = setTick s (s.tick + BitVec.ofNat 8 n) := by
  rw [← tickEvent_iterate_tick]
  induction n with
  | zero => rfl
  | succ n ih =>
    rw [Function.iterate_succ_apply', tickEvent_tick, tickEvent_of_a_or_off (.inr (by rwa [tickEvent_iterate_power]))]
    conv_lhs => rw [ih]
    rfl

/-- Turning off and, `DEBOUNCE` or more ticks later, on again: the lines the variant has are low, and in a build that
keeps it the accumulator is the one from before (R69, R81). -/
theorem edgeEvent_off_then_on {n : Nat} {s : State} (hb : buildValid s.build = true) (ha : edgeAccepted s = true)
    (hp : s.power = true) (hkeep : s.build.accClearOnOff = false) (hn : s.build.debounce ≤ n)
    (hwrap : s.tick.toNat + n ≤ 255) :
    let u := edgeEvent (tickEvent^[n] (edgeEvent s))
    u.build = s.build ∧ u.power = true ∧ u.sum = s.sum ∧ u.count = s.count ∧ u.out = (allOutputsLow s).out := by
  obtain ⟨hd, -⟩ := buildValid_iff.1 hb
  have hoff := edgeEvent_of_accepted_off ((edgeAccepted_iff s).1 ha) hd hp
  have hagain : edgeAccepted (tickEvent^[n] (edgeEvent s)) = true :=
    edgeAccepted_tickEvent_iterate (by rwa [edgeEvent_build]) (by rw [hoff]) (by rwa [edgeEvent_build])
      (by rwa [edgeEvent_tick])
  have hcounted := tickEvent_iterate_of_off n (s := edgeEvent s) (by rw [hoff])
  rw [hcounted] at hagain ⊢
  rw [edgeEvent_of_accepted_on ((edgeAccepted_iff _).1 hagain) (by rwa [setTick_build, edgeEvent_build])
    (by rw [hoff]; rfl), hoff, hkeep]
  exact ⟨rfl, rfl, rfl, rfl, rfl⟩

theorem allOutputsLow_out_l0 (s : State) : (allOutputsLow s).out.l0 = false := by
  rw [allOutputsLow_eq]
  cases s.build.variant <;> rfl

/-- From a low line the sample that fills the window leaves it high exactly when the average is above `HIGH` (R79). -/
theorem sampleEvent_fills_window_of_low {raw : Nat} {s : State} (hp : s.power = true)
    (hc : s.count.toNat + 1 = s.build.window) (hlow : s.out.l0 = false) :
    (sampleEvent raw s).power = true ∧ (sampleEvent raw s).sum = 0 ∧ (sampleEvent raw s).count = 0 ∧
      (sampleEvent raw s).out.l0 = decide (s.build.high < (s.sum.toNat + raw) / s.build.window) := by
  rw [sampleEvent_of_count_add_one_eq_window hp hc, decideOutput_eq]
  refine ⟨hp, rfl, rfl, ?_⟩
  simp only [setAccumulator_out, hlow, ite_self]
  exact (Bool.if_true_left _ _).trans (Bool.or_false _)

/-- Settles O26: the sample after the power-on finds the count one short of the window, and a line that is low. -/
theorem staleWindowIsCompletedAfterPowerOn : Obligations.StaleWindowIsCompletedAfterPowerOn := by
  unfold Obligations.StaleWindowIsCompletedAfterPowerOn
  intro raw s hb hv hkeep hp hacc hc hr hthreshold hwrap
  have hb' : buildValid (edgeEvent s).build = true := by rwa [edgeEvent_build]
  obtain ⟨hbuild, hon, hsum, hcount, hout⟩ :=
    edgeEvent_off_then_on hb ((edgeAccepted_iff_add_le hb).2 hthreshold) hp hkeep le_rfl hwrap
  have hsplit (ticks : List Instr) : [Instr.edge] ++ ticks ++ [Instr.edge, Instr.sample raw] =
      Instr.edge :: (ticks ++ [Instr.edge] ++ [Instr.sample raw]) := by simp
  rw [hsplit, runOps_cons_of_next (exec_edge_of_valid hb), runOps_append_of_next (runOps_replicate_tick_edge _ hb'),
    runOps_singleton]
  generalize edgeEvent (tickEvent^[s.build.debounce] (edgeEvent s)) = u at hbuild hon hsum hcount hout ⊢
  have hdecided := sampleEvent_fills_window_of_low (raw := raw) hon (by rw [hcount, hbuild, hc])
    (by rw [hout, allOutputsLow_out_l0])
  rw [hbuild, hsum] at hdecided
  exact ⟨_, exec_sample_of_valid (by rwa [hbuild]) (by rwa [hbuild]) (by rwa [hbuild]), hdecided⟩

/-- Settles O27: an accepted EDGE clears the accumulator exactly when it turns the power off in a build that says so. -/
theorem powerOffKeepsOrClearsTheAccumulator : Obligations.PowerOffKeepsOrClearsTheAccumulator := by
  unfold Obligations.PowerOffKeepsOrClearsTheAccumulator
  refine fun s hb => ⟨fun hp h => ?_, _, exec_reset_of_valid hb, rfl, rfl⟩
  have ha := (edgeAccepted_iff_add_le hb).2 h
  refine ⟨_, exec_edge_of_valid hb, by rw [edgeEvent_power_of_accepted ha, hp]; rfl, fun hclear => ?_, fun hclear => ?_⟩
  · simp [edgeEvent_sum, edgeEvent_count, hclear]
  · simp [edgeEvent_sum, edgeEvent_count, hclear, ha, hp]

end Sys2Proof.Machine
end

section
/-! The Sequence Rotator in runs of TICKs (43_sequence_rotator.md R90 to R92): what one step does to each line, and the
patterns that the two pairs of tables keep. -/

namespace Sys2Proof.Machine

/-! ## One rotation step -/

/-- A rotation step line by line: the leading line goes high, the trailing line low, the others stay (R87). -/
theorem lineLevel_tickEvent {s : State} (hv : s.build.variant = .b) (hp : s.power = true) (k : Line) :
    lineLevel (tickEvent s).out k =
      if k = tableAt s.build.lead s.idx then true
      else if k = tableAt s.build.trail s.idx then false
      else lineLevel s.out k := by
  rw [tickEvent_of_b_on hv hp, lineLevel_writeLine, lineLevel_writeLine]

theorem tickEvent_idx_of_b_on {s : State} (hv : s.build.variant = .b) (hp : s.power = true) :
    (tickEvent s).idx = nextIndex s.idx := by
  rw [tickEvent_idx, if_pos ⟨hv, hp⟩]

/-- The leading line is high after a rotation step and the trailing line, which the tables keep apart from it, is
low. -/
theorem tickEvent_lead_trail {s : State} (hb : buildValid s.build = true) (hv : s.build.variant = .b)
    (hp : s.power = true) :
    lineLevel (tickEvent s).out (tableAt s.build.lead s.idx) = true ∧
      lineLevel (tickEvent s).out (tableAt s.build.trail s.idx) = false := by
  obtain ⟨-, -, -, -, -, -, -, -, hdisjoint⟩ := buildValid_iff.1 hb
  rw [lineLevel_tickEvent hv hp, lineLevel_tickEvent hv hp, if_pos rfl, if_neg (lead_ne_trail hdisjoint _), if_pos rfl]
  exact ⟨rfl, rfl⟩

/-- Settles O29: three rotation steps, each with the index the one before left. -/
theorem threeTicksMakeOneRotation : Obligations.ThreeTicksMakeOneRotation := by
  unfold Obligations.ThreeTicksMakeOneRotation
  intro s hb hv hp hidx
  have hidx1 : (tickEvent s).idx = .i1 := by rw [tickEvent_idx_of_b_on hv hp, hidx]; rfl
  have hb1 : buildValid (tickEvent s).build = true := by rwa [tickEvent_build]
  have hv1 : (tickEvent s).build.variant = .b := by rwa [tickEvent_build]
  have hp1 : (tickEvent s).power = true := by rwa [tickEvent_power]
  have hidx2 : (tickEvent (tickEvent s)).idx = .i2 := by rw [tickEvent_idx_of_b_on hv1 hp1, hidx1]; rfl
  have hb2 : buildValid (tickEvent (tickEvent s)).build = true := by rwa [tickEvent_build]
  have hv2 : (tickEvent (tickEvent s)).build.variant = .b := by rwa [tickEvent_build]
  have hp2 : (tickEvent (tickEvent s)).power = true := by rwa [tickEvent_power]
  have hlines0 := tickEvent_lead_trail hb hv hp
  have hlines1 := tickEvent_lead_trail hb1 hv1 hp1
  have hlines2 := tickEvent_lead_trail hb2 hv2 hp2
  rw [hidx] at hlines0
  rw [hidx1, tickEvent_build] at hlines1
  rw [hidx2, tickEvent_build, tickEvent_build] at hlines2
  exact ⟨_, _, _, exec_tick_of_valid hb, exec_tick_of_valid hb1, exec_tick_of_valid hb2, hidx1, hidx2,
    by rw [tickEvent_idx_of_b_on hv2 hp2, hidx2]; rfl, hlines0.1, hlines0.2, hlines1.1, hlines1.2, hlines2.1,
    hlines2.2⟩

/-! ## Runs of rotation steps -/

theorem tickEvent_iterate_build (n : Nat) (s : State) : (tickEvent^[n] s).build = s.build := by
  obtain ⟨i, o, hrun⟩ := tickEvent_iterate_eq n s
  rw [hrun]

theorem tickEvent_iterate_idx {s : State} (hv : s.build.variant = .b) (hp : s.power = true) (n : Nat) :
    (tickEvent^[n] s).idx = nextIndex^[n] s.idx := by
  induction n with
  | zero => rfl
  | succ n ih =>
    rw [Function.iterate_succ_apply', Function.iterate_succ_apply', ← ih]
    exact tickEvent_idx_of_b_on (by rwa [tickEvent_iterate_build]) (by rwa [tickEvent_iterate_power])

/-- A rotation step moves a single light onto the leading line, if the light is the trailing line or there is none. -/
theorem oneLineHigh_tickEvent {s : State} (hv : s.build.variant = .b) (hp : s.power = true)
    (hlit : ∀ k, k ≠ tableAt s.build.trail s.idx → lineLevel s.out k = false) :
    oneLineHigh (tickEvent s).out (tableAt s.build.lead s.idx) := by
  intro k
  rw [lineLevel_tickEvent hv hp]
  by_cases hlead : k = tableAt s.build.lead s.idx
  · simp [hlead]
  · rw [if_neg hlead, decide_eq_false hlead, ite_eq_left_iff]
    exact hlit k

/-- Where each step trails the line that the step before lit, a single light goes round (R90). -/
theorem oneLineHigh_tickEvent_iterate {s : State} (hv : s.build.variant = .b) (hp : s.power = true)
    (htables : ∀ i, tableAt s.build.trail (nextIndex i) = tableAt s.build.lead i)
    (hdark : ∀ k, lineLevel s.out k = false) (n : Nat) :
    oneLineHigh (tickEvent^[n + 1] s).out (tableAt s.build.lead (nextIndex^[n] s.idx)) := by
  induction n with
  | zero => exact oneLineHigh_tickEvent hv hp fun k _ => hdark k
  | succ n ih =>
    rw [Function.iterate_succ_apply', ← tickEvent_iterate_idx hv hp, ← tickEvent_iterate_build (n + 1) s]
    refine oneLineHigh_tickEvent (by rwa [tickEvent_iterate_build]) (by rwa [tickEvent_iterate_power]) fun k hk => ?_
    rw [tickEvent_iterate_build, tickEvent_iterate_idx hv hp, Function.iterate_succ_apply', htables] at hk
    rw [ih k, decide_eq_false hk]

/-- Settles O30: the lines are dark when the power comes on, and with this hardware's tables each step trails the line
that the step before lit. -/
theorem oneLineRotates : Obligations.OneLineRotates := by
  unfold Obligations.OneLineRotates
  intro n s hb hv hlead htrail hp hdark hthreshold
  have hb' : buildValid (edgeEvent s).build = true := by rwa [edgeEvent_build]
  have hv' : (edgeEvent s).build.variant = .b := by rwa [edgeEvent_build]
  have hp' : (edgeEvent s).power = true := by
    rw [edgeEvent_power_of_accepted ((edgeAccepted_iff_add_le hb).2 hthreshold), hp]
    rfl
  have hout : (edgeEvent s).out = s.out := by simp [edgeEvent_out, hp]
  have hport : ∀ level ∈ outPort (edgeEvent s), level = false := by
    rw [outPort_congr (edgeEvent_build s) hout]
    exact hdark hp
  have hlow (k : Line) : lineLevel (edgeEvent s).out k = false :=
    forall_mem_outPort_iff.1 hport k (by rw [hv']; cases k <;> decide)
  have htables (i : RotIndex) :
      tableAt (edgeEvent s).build.trail (nextIndex i) = tableAt (edgeEvent s).build.lead i := by
    rw [edgeEvent_build, hlead, htrail]
    cases i <;> rfl
  have hlit := oneLineHigh_tickEvent_iterate hv' hp' htables hlow n
  have hidx := tickEvent_iterate_idx hv' hp' (n + 1)
  rw [edgeEvent_build, edgeEvent_idx] at hlit
  rw [edgeEvent_idx] at hidx
  exact ⟨_, _, exec_edge_of_valid hb, hport, runOps_replicate_tick _ hb', hlit, hidx⟩

/-- Every line is high but the one that leads next. -/
def allButNextHigh (s : State) : Prop :=
  ∀ k, lineLevel s.out k = decide (k ≠ tableAt s.build.lead s.idx)

/-- Where each step trails the line that the next one leads, a step onto lines that are high, but for the two that it
writes, leaves all high but the next (R92). -/
theorem allButNextHigh_tickEvent {s : State} (hb : buildValid s.build = true) (hv : s.build.variant = .b)
    (hp : s.power = true) (htables : ∀ i, tableAt s.build.trail i = tableAt s.build.lead (nextIndex i))
    (hlit : ∀ k, k ≠ tableAt s.build.lead s.idx → k ≠ tableAt s.build.trail s.idx → lineLevel s.out k = true) :
    allButNextHigh (tickEvent s) := by
  obtain ⟨-, -, -, -, -, -, -, -, hdisjoint⟩ := buildValid_iff.1 hb
  intro k
  rw [lineLevel_tickEvent hv hp, tickEvent_build, tickEvent_idx_of_b_on hv hp, ← htables]
  by_cases hlead : k = tableAt s.build.lead s.idx
  · simp [hlead, (lead_ne_trail hdisjoint s.idx).symm]
  · by_cases htrail : k = tableAt s.build.trail s.idx
    · simp [htrail, lead_ne_trail hdisjoint s.idx]
    · simp [hlead, htrail, hlit k hlead htrail]

theorem allButNextHigh_tickEvent_iterate {s : State} (hb : buildValid s.build = true) (hv : s.build.variant = .b)
    (hp : s.power = true) (htables : ∀ i, tableAt s.build.trail i = tableAt s.build.lead (nextIndex i))
    (h : allButNextHigh s) (n : Nat) : allButNextHigh (tickEvent^[n] s) := by
  induction n with
  | zero => exact h
  | succ n ih =>
    rw [Function.iterate_succ_apply']
    refine allButNextHigh_tickEvent (by rwa [tickEvent_iterate_build]) (by rwa [tickEvent_iterate_build])
      (by rwa [tickEvent_iterate_power]) (by rwa [tickEvent_iterate_build]) fun k hk _ => ?_
    rw [ih k, decide_eq_true hk]

/-- Settles O31: the second TICK leaves the line of the first high beside its own, and every later one keeps the
pattern. -/
theorem alternativeTablesLightTwoLines : Obligations.AlternativeTablesLightTwoLines := by
  unfold Obligations.AlternativeTablesLightTwoLines
  intro n s hb hv hlead htrail hp hout
  have hb' : buildValid (tickEvent s).build = true := by rwa [tickEvent_build]
  have hv' : (tickEvent s).build.variant = .b := by rwa [tickEvent_build]
  have hp' : (tickEvent s).power = true := by rwa [tickEvent_power]
  have htables (i : RotIndex) : tableAt s.build.trail i = tableAt s.build.lead (nextIndex i) := by
    rw [hlead, htrail]
    cases i <;> rfl
  have hthree (i : RotIndex) (k : Line) : k ≠ tableAt s.build.lead (nextIndex i) →
      k ≠ tableAt s.build.lead (nextIndex (nextIndex i)) → k = tableAt s.build.lead i := by
    rw [hlead]
    cases i <;> cases k <;> decide
  have hfirst : oneLineHigh (tickEvent s).out (tableAt s.build.lead s.idx) :=
    oneLineHigh_tickEvent hv hp fun k _ => by rw [hout]; cases k <;> rfl
  have hsecond : allButNextHigh (tickEvent (tickEvent s)) := by
    refine allButNextHigh_tickEvent hb' hv' hp' (by rwa [tickEvent_build]) fun k hk hk' => ?_
    rw [tickEvent_build, tickEvent_idx_of_b_on hv hp] at hk hk'
    rw [htables] at hk'
    rw [hfirst k, decide_eq_true (hthree s.idx k hk hk')]
  have hall := allButNextHigh_tickEvent_iterate (by rwa [tickEvent_build]) (by rwa [tickEvent_build])
    (by rwa [tickEvent_power]) (by rwa [tickEvent_build, tickEvent_build]) hsecond n
  refine ⟨_, _, exec_tick_of_valid hb, hfirst, runOps_replicate_tick _ hb', fun k => (hall k).trans ?_⟩
  rw [← tickEvent_iterate_idx hv hp, tickEvent_iterate_build, tickEvent_build, tickEvent_build]
  rfl

end Sys2Proof.Machine
end

section
/-! What the events do not read (10_state.md R11, 44_system_ops.md R97, 70_reset_and_hazards.md R142), and the compounds
as their events. -/

namespace Sys2Proof.Machine

/-! ## The registers an event does not read -/

/-- SAMPLE neither reads nor writes the counters, the edge detector's bit and the pins to come. -/
theorem sampleEvent_frame (raw : Nat) (s : State) (v l : TickWord) (b : Bool) (ps : List Pins) :
    sampleEvent raw { s with tick := v, last := l, swPrev := b, inputs := ps } =
      { sampleEvent raw s with tick := v, last := l, swPrev := b, inputs := ps } := by
  obtain hp | hp := Bool.eq_false_or_eq_true s.power
  · by_cases hc : s.count.toNat + 1 < s.build.window
    · rw [sampleEvent_of_partial hp hc, sampleEvent_of_partial (by exact hp) (by exact hc)]
      by_cases hfit : s.sum.toNat + raw < 4096
      · rw [storeAccumulator_of_fits hfit, storeAccumulator_of_fits (by exact hfit)]
        rfl
      · rw [storeAccumulator_of_not_fits (Nat.le_of_not_lt hfit),
          storeAccumulator_of_not_fits (by exact Nat.le_of_not_lt hfit)]
        rfl
    · rw [sampleEvent_of_full hp (Nat.le_of_not_lt hc),
        sampleEvent_of_full (by exact hp) (by exact Nat.le_of_not_lt hc), decideOutput_eq, decideOutput_eq]
      rfl
  · rw [sampleEvent_of_off raw hp, sampleEvent_of_off raw (by exact hp)]

/-- TICK reads the counter to advance it, and neither reads nor writes `last`, the edge detector's bit and the pins to
come. -/
theorem tickEvent_frame (s : State) (v l : TickWord) (b : Bool) (ps : List Pins) :
    tickEvent { s with tick := v, last := l, swPrev := b, inputs := ps } =
      { tickEvent s with tick := v + 1, last := l, swPrev := b, inputs := ps } := by
  cases hv : s.build.variant with
  | a => rw [tickEvent_of_a hv, tickEvent_of_a (by exact hv)]; rfl
  | b =>
    obtain hp | hp := Bool.eq_false_or_eq_true s.power
    · rw [tickEvent_of_b_on hv hp, tickEvent_of_b_on (by exact hv) (by exact hp)]
    · rw [tickEvent_of_b_off hv hp, tickEvent_of_b_off (by exact hv) (by exact hp)]
      rfl

/-- EDGE neither reads nor writes the edge detector's bit and the pins to come. -/
theorem edgeEvent_frame (s : State) (b : Bool) (ps : List Pins) :
    edgeEvent { s with swPrev := b, inputs := ps } = { edgeEvent s with swPrev := b, inputs := ps } := by
  rw [edgeEvent_eq_fields, edgeEvent_eq_fields, allOutputsLow_eq, allOutputsLow_eq]
  rfl

/-- SAMPLE from other counters gives the same result with those counters (R11). -/
theorem sampleEvent_retime (raw : Nat) (s : State) (v l : TickWord) :
    sampleEvent raw { s with tick := v, last := l } = { sampleEvent raw s with tick := v, last := l } :=
  (sampleEvent_frame raw s v l s.swPrev s.inputs).trans (by simp)

/-- TICK from other counters gives the same result with those counters, the tick counted (R11). -/
theorem tickEvent_retime (s : State) (v l : TickWord) :
    tickEvent { s with tick := v, last := l } = { tickEvent s with tick := v + 1, last := l } :=
  (tickEvent_frame s v l s.swPrev s.inputs).trans (by simp)

/-- Settles O58: without an EDGE event the effect is TICK's, SAMPLE's or nothing. -/
theorem onlyEdgeReadsTickAndLast : Obligations.OnlyEdgeReadsTickAndLast := by
  unfold Obligations.OnlyEdgeReadsTickAndLast
  intro i s t v l hedge hi h
  obtain ⟨ha, rfl⟩ := exec_next_iff.1 h
  refine exec_next_iff.2 ⟨(applies_congr rfl).2 ha, Eq.symm ?_⟩
  cases i with
  | reset => exact absurd rfl hi
  | edge | edgeSample | edgeTick | edgeTickSample => cases hedge
  | idle => rfl
  | sample raw => exact sampleEvent_retime raw s v l
  | tick => exact tickEvent_retime s v l
  | tickSample raw =>
    exact (congrArg (sampleEvent raw) (tickEvent_retime s v l)).trans (sampleEvent_retime raw (tickEvent s) (v + 1) l)

/-! ## Compounds -/

/-- What an operation with an operand asks for: a specified build, variant A and the operand in range (R75). -/
theorem exec_of_rawOperand_inRange {i : Instr} {raw : Nat} {s : State} (hi : i.rawOperand = some raw)
    (hb : buildValid s.build = true) (hv : s.build.variant = .a) (hr : raw ≤ s.build.rawMax) :
    exec i s = .next (effect i s) := by
  refine exec_of_applies ⟨hb, fun raw' hraw' => ?_⟩
  cases hi.symm.trans hraw'
  exact ⟨hv, hr⟩

/-- Settles O33: a compound's effect is its events' effects in their order, and the build is the same for each. -/
theorem compoundsComplete : Obligations.CompoundsComplete := by
  unfold Obligations.CompoundsComplete
  intro raw s hb
  have hedge := exec_edge_of_valid hb
  have htick := exec_tick_of_valid hb
  have htick' : exec .tick (edgeEvent s) = .next (tickEvent (edgeEvent s)) :=
    exec_tick_of_valid (by rwa [edgeEvent_build])
  refine ⟨⟨_, _, hedge, htick', exec_of_applies ⟨hb, nofun⟩⟩, fun hv hr => ?_⟩
  have hsample {t : State} (ht : t.build = s.build) : exec (.sample raw) t = .next (sampleEvent raw t) :=
    exec_sample_of_valid (by rwa [ht]) (by rwa [ht]) (by rwa [ht])
  exact ⟨⟨_, _, htick, hsample (by simp), exec_of_rawOperand_inRange rfl hb hv hr⟩,
    ⟨_, _, hedge, hsample (by simp), exec_of_rawOperand_inRange rfl hb hv hr⟩,
    _, _, _, hedge, htick', hsample (by simp), exec_of_rawOperand_inRange rfl hb hv hr⟩

/-! ## The order of simultaneous events (R142) -/

/-- An operation on a parameter set that is no build is refused (U10). -/
theorem exec_of_invalid {i : Instr} {s : State} (hb : buildValid s.build = false) :
    exec i s = .refused .invalidBuild := by
  cases hraw : i.rawOperand with
  | none => simp [exec_of_rawOperand_none hraw, onBuild, hb]
  | some raw => simp [exec_of_rawOperand_some hraw, onSamplePort, hb]

theorem runOps_cons_of_refused {i : Instr} {is : List Instr} {s : State} {r : Refusal} (h : exec i s = .refused r) :
    runOps (i :: is) s = .refused r := by
  simp [runOps, h]

/-- In variant A neither of TICK and SAMPLE touches what the other one reads. -/
theorem sampleEvent_tickEvent_of_a {raw : Nat} {s : State} (hv : s.build.variant = .a) :
    sampleEvent raw (tickEvent s) = tickEvent (sampleEvent raw s) := by
  rw [tickEvent_of_a hv, tickEvent_of_a (by rwa [sampleEvent_build]), sampleEvent_tick]
  exact (sampleEvent_retime raw s (s.tick + 1) s.last).trans (by simp [setTick])

/-- In variant A TICK and SAMPLE in either order answer alike, refusals included. -/
theorem runOps_tick_sample_comm {raw : Nat} {s : State} (hv : s.build.variant = .a) :
    runOps [.tick, .sample raw] s = runOps [.sample raw, .tick] s := by
  obtain hb | hb := Bool.eq_false_or_eq_true (buildValid s.build)
  · rw [runOps_cons_of_next (exec_tick_of_valid hb), runOps_singleton]
    by_cases hr : raw ≤ s.build.rawMax
    · rw [runOps_cons_of_next (exec_sample_of_valid hb hv hr), runOps_singleton,
        exec_tick_of_valid (by rwa [sampleEvent_build]), ← sampleEvent_tickEvent_of_a hv]
      exact exec_sample_of_valid (by rwa [tickEvent_build]) (by rwa [tickEvent_build]) (by rwa [tickEvent_build])
    · have hr : s.build.rawMax < raw := Nat.lt_of_not_le hr
      rw [runOps_cons_of_refused (exec_of_rawMax_lt hb hv rfl hr)]
      exact exec_of_rawMax_lt (by rwa [tickEvent_build]) (by rwa [tickEvent_build]) rfl (by rwa [tickEvent_build])
  · rw [runOps_cons_of_refused (exec_of_invalid hb), runOps_cons_of_refused (exec_of_invalid hb)]

/-- Settles O34: an EDGE decides on the count before the TICK of its cycle, and gates the SAMPLE of its cycle. -/
theorem simultaneousEventsAreOrderSensitive : Obligations.SimultaneousEventsAreOrderSensitive := by
  unfold Obligations.SimultaneousEventsAreOrderSensitive
  refine ⟨fun s hb hnear htick => ?_, fun raw s hb hv hkeep hr hp hc hthreshold => ?_, fun raw s hv =>
    runOps_tick_sample_comm hv⟩
  · have hearly : ¬ edgeAccepted s = true := by
      rw [edgeAccepted_iff_add_le hb]
      omega
    have hreached : edgeAccepted (tickEvent s) = true := by
      rw [edgeAccepted_iff_add_le (by rwa [tickEvent_build]), tickEvent_build, tickEvent_tick, tickEvent_last,
        toNat_tickWord_add_one htick, hnear]
    refine ⟨_, _, exec_of_applies ⟨hb, nofun⟩, ?_, runOps_replicate_tick_edge 1 hb, ?_⟩
    · exact (tickEvent_power _).trans (by rw [edgeEvent_power, if_neg hearly])
    · exact (edgeEvent_power_of_accepted hreached).trans (by rw [tickEvent_power])
  · have ha := (edgeAccepted_iff_add_le hb).2 hthreshold
    have hoff : (edgeEvent s).power = false := by
      rw [edgeEvent_power_of_accepted ha, hp]
      rfl
    have hgated : effect (.edgeSample raw) s = edgeEvent s := sampleEvent_of_off raw hoff
    have hsum : (sampleEvent raw s).sum = 0 := by
      rw [sampleEvent_of_count_add_one_eq_window hp hc]
      rfl
    have hcount : (sampleEvent raw s).count = 0 := by
      rw [sampleEvent_of_count_add_one_eq_window hp hc]
      rfl
    refine ⟨_, _, exec_of_rawOperand_inRange rfl hb hv hr, ?_, ?_,
      (runOps_cons_of_next (exec_sample_of_valid hb hv hr)).trans ((runOps_singleton ..).trans
        (exec_edge_of_valid (by rwa [sampleEvent_build]))), ?_, ?_⟩
    · simp [hgated, edgeEvent_sum, hkeep]
    · simp [hgated, edgeEvent_count, hkeep]
    · rw [edgeEvent_sum, hsum, ite_self]
    · rw [edgeEvent_count, hcount, ite_self]

end Sys2Proof.Machine
end

section
/-! The pin level (44_system_ops.md R98 to R103, 41_debounced_toggle.md R70, R71): single clock cycles, and runs of
cycles as runs of operations. -/

namespace Sys2Proof.Machine

/-! ## One cycle -/

theorem takePins_of_inputs {s : State} {p : Pins} {ps : List Pins} (h : s.inputs = p :: ps) :
    takePins s = { s with swPrev := p.sw, inputs := ps } := by
  rw [takePins, currentPins_of_inputs h, h]
  rfl

theorem fetchWord_of_inputs {s : State} {p : Pins} {ps : List Pins} (h : s.inputs = p :: ps) :
    fetchWord s = wordOfPins s.build.edgeSel s.swPrev p := by
  rw [fetchWord, currentPins_of_inputs h]

/-- A switch level that stays is no transition (R70). -/
theorem edgeDetect_self (sel : EdgeSel) (sw : Bool) : edgeDetect sel sw sw = false := by
  cases sel <;> simp [edgeDetect]

/-- Settles O2: both equations are read off the definitions of the reset state and of RESET's effect. -/
theorem resetStateHoldsTheResetValues : Obligations.ResetStateHoldsTheResetValues := by
  unfold Obligations.ResetStateHoldsTheResetValues
  exact ⟨rfl, fun _ hb => exec_reset_of_valid hb⟩

/-- Settles O37: the test of the build stands before every operation, and a cycle runs an operation in the same
build. -/
theorem invalidBuildIsRefused : Obligations.InvalidBuildIsRefused := by
  unfold Obligations.InvalidBuildIsRefused
  intro i s hb
  exact ⟨exec_of_invalid hb, (step_eq s).trans (exec_of_invalid (by rwa [takePins_build]))⟩

/-- Settles O42: the first listed pins are the ones sampled. -/
theorem stepRunsTheDecodedOperation : Obligations.StepRunsTheDecodedOperation := by
  unfold Obligations.StepRunsTheDecodedOperation
  intro s p ps hin
  exact ⟨fetchWord_of_inputs hin, fun i hi _ => by rw [step_eq, hi, takePins_of_inputs hin]⟩

/-- Settles O44: `rst` makes the word RESET's, and RESET clears the `sw_prev` that the cycle stored. -/
theorem resetPinAppliesResetOnly : Obligations.ResetPinAppliesResetOnly := by
  unfold Obligations.ResetPinAppliesResetOnly
  intro s p ps hb hin hrst
  have hdecode : decode (fetchWord s) = .reset := by
    rw [decode_eq_reset_iff, fieldRst_fetchWord, currentPins_of_inputs hin, hrst]
  rw [step_eq, hdecode, exec_reset_of_valid (by rwa [takePins_build]), takePins_of_inputs hin]
  rfl

/-- A word with no event but EDGE is EDGE or IDLE as its edge bit is. -/
theorem decode_packWord_edge (e : Bool) (d : RawWord) :
    decode (packWord false e false false d) = if e = true then .edge else .idle := by
  cases e <;> simp [decode]

/-- Right after RESET an EDGE is a plain discard, whatever the pins (R71, R131). -/
theorem edgeEvent_resetOf {b : Build} (hb : buildValid b = true) (sw : Bool) (ps : List Pins) :
    edgeEvent { State.resetOf b with swPrev := sw, inputs := ps } =
      { State.resetOf b with swPrev := sw, inputs := ps } := by
  obtain ⟨hd, -⟩ := buildValid_iff.1 hb
  exact edgeEvent_of_plain_discard le_rfl (hd.trans (Nat.le_add_left ..))

/-- Settles O45: the cycle's operation is EDGE or IDLE, and neither writes anything right after RESET. -/
theorem switchIdleLevelDoesNotMatter : Obligations.SwitchIdleLevelDoesNotMatter := by
  unfold Obligations.SwitchIdleLevelDoesNotMatter
  intro b p ps hb hrst htick hsample
  have hdecode : decode (fetchWord { State.resetOf b with inputs := p :: ps }) =
      if edgeDetect b.edgeSel p.sw false = true then .edge else .idle := by
    rw [fetchWord_of_inputs rfl, wordOfPins, hrst, htick, hsample]
    exact decode_packWord_edge _ _
  rw [step_eq, hdecode, takePins_of_inputs rfl]
  split
  · rw [exec_edge_of_valid (by exact hb)]
    exact congrArg _ (edgeEvent_resetOf hb p.sw ps)
  · exact exec_idle_of_valid hb

/-- Settles O46: the quiet pins hold the switch level and strobe nothing. -/
theorem cycleWithoutListedPinsIsIdle : Obligations.CycleWithoutListedPinsIsIdle := by
  unfold Obligations.CycleWithoutListedPinsIsIdle
  intro s hb hin
  have hpins : currentPins s = quietPins s := by simp [currentPins, hin]
  have hdecode : decode (fetchWord s) = .idle := by
    rw [fetchWord, hpins, wordOfPins]
    simp only [quietPins, edgeDetect_self]
    exact decode_packWord_edge false 0
  have htake : takePins s = s := by
    rw [takePins, hpins, hin, List.tail_nil, ← hin]
    rfl
  rw [step_eq, hdecode, htake]
  exact ⟨rfl, exec_idle_of_valid hb⟩

/-! ## Presented words (log 13) -/

/-- From the chosen stored level the detector raises exactly the asked edge bit. -/
theorem edgeDetect_swPrevFor (sel : EdgeSel) (swPrev e : Bool) :
    edgeDetect sel (swPrevFor sel swPrev e ^^ e) (swPrevFor sel swPrev e) = e := by
  cases sel <;> cases e <;> simp [edgeDetect, swPrevFor]

/-- Pins presented for a word make that word, where the detector raises its edge bit. -/
theorem wordOfPins_pinsForWord {sel : EdgeSel} {swPrev : Bool} {w : CycleWord}
    (h : edgeDetect sel (swPrev ^^ fieldEdge w) swPrev = fieldEdge w) :
    wordOfPins sel swPrev (pinsForWord swPrev w) = w := by
  rw [wordOfPins]
  simp only [pinsForWord, h, packWord_fields]

/-- Settles O47: the stored level is chosen so that the edge bit can be raised, and the fields make the word again. -/
theorem presentedWordIsTaken : Obligations.PresentedWordIsTaken := by
  unfold Obligations.PresentedWordIsTaken
  exact fun s w => ⟨wordOfPins_pinsForWord (edgeDetect_swPrevFor ..), rfl, rfl⟩

/-- Settles O49: each operation's canonical word is presented against the level that the cycle before left. -/
theorem eventRunHasAPinRun : Obligations.EventRunHasAPinRun := by
  unfold Obligations.EventRunHasAPinRun
  intro swPrev ops hops
  induction ops generalizing swPrev with
  | nil => exact ⟨[], rfl, rfl⟩
  | cons i is ih =>
    obtain ⟨hi, his⟩ := List.forall_mem_cons.1 hops
    obtain ⟨ps, hlen, hps⟩ := ih (swPrevAfter (pinsForWord swPrev (encode i))) his
    refine ⟨pinsForWord swPrev (encode i) :: ps, by rw [List.length_cons, List.length_cons, hlen], ?_⟩
    have hword : wordOfPins .both swPrev (pinsForWord swPrev (encode i)) = encode i :=
      wordOfPins_pinsForWord (edgeDetect_swPrevFor .both swPrev _)
    rw [wordsOfPins, List.map_cons, hps, hword, decodeEncodeRoundTrip i hi]

/-! ## Operations and the pin-level part of the state -/

theorem edgeEvent_withoutPins (s : State) : edgeEvent (withoutPins s) = withoutPins (edgeEvent s) :=
  edgeEvent_frame s false []

theorem tickEvent_withoutPins (s : State) : tickEvent (withoutPins s) = withoutPins (tickEvent s) :=
  (tickEvent_frame s s.tick s.last false []).trans (by simp [withoutPins, setInputs, setSwPrev])

theorem sampleEvent_withoutPins (raw : Nat) (s : State) :
    sampleEvent raw (withoutPins s) = withoutPins (sampleEvent raw s) :=
  (sampleEvent_frame raw s s.tick s.last false []).trans (by simp [withoutPins, setInputs, setSwPrev])

/-- No operation reads `sw_prev` or the pins to come (R103). -/
theorem effect_withoutPins (i : Instr) (s : State) : effect i (withoutPins s) = withoutPins (effect i s) := by
  cases i with
  | reset | idle => rfl
  | sample | tick | tickSample | edge | edgeSample | edgeTick | edgeTickSample =>
    simp only [effect, edgeEvent_withoutPins, tickEvent_withoutPins, sampleEvent_withoutPins]

theorem withoutPins_build (s : State) : (withoutPins s).build = s.build := rfl

/-- An operation's outcome with the pin-level part put aside is its outcome from the state without that part. -/
theorem outcomeWithoutPins_exec (i : Instr) (s : State) : outcomeWithoutPins (exec i s) = exec i (withoutPins s) := by
  cases hraw : i.rawOperand with
  | none =>
    rw [exec_of_rawOperand_none hraw, exec_of_rawOperand_none hraw, onBuild, onBuild, withoutPins_build,
      effect_withoutPins]
    split <;> rfl
  | some raw =>
    rw [exec_of_rawOperand_some hraw, exec_of_rawOperand_some hraw, onSamplePort, onSamplePort, withoutPins_build,
      effect_withoutPins]
    split
    · split
      · rfl
      · split <;> rfl
    · rfl

/-- So is a run's. -/
theorem outcomeWithoutPins_runOps (ops : List Instr) (s : State) :
    outcomeWithoutPins (runOps ops s) = runOps ops (withoutPins s) := by
  induction ops generalizing s with
  | nil => rfl
  | cons i is ih =>
    have hexec := outcomeWithoutPins_exec i s
    cases h : exec i s with
    | next t =>
      rw [h] at hexec
      rw [runOps_cons_of_next h, ih, runOps_cons_of_next hexec.symm]
    | fault r => exact nomatch r
    | refused r =>
      rw [h] at hexec
      rw [runOps_cons_of_refused h, runOps_cons_of_refused hexec.symm]
      rfl

theorem runOps_append_of_refused {is js : List Instr} {s : State} {r : Refusal} (h : runOps is s = .refused r) :
    runOps (is ++ js) s = .refused r := by
  induction is generalizing s with
  | nil => cases h
  | cons i is ih =>
    rw [List.cons_append]
    cases hi : exec i s with
    | next t =>
      rw [runOps_cons_of_next hi] at h ⊢
      exact ih h
    | fault q => exact nomatch q
    | refused q =>
      rw [runOps_cons_of_refused hi] at h ⊢
      exact h

/-! ## Runs of cycles -/

/-- No operation writes the pins to come. -/
theorem effect_inputs (i : Instr) (s : State) : (effect i s).inputs = s.inputs := by
  cases i <;> simp [effect, resetRegisters]

/-- What a cycle keeps and uses up: the build stays, and the first listed pins are gone. -/
theorem step_build_inputs {s t : State} (h : step s = .next t) : t.build = s.build ∧ t.inputs = s.inputs.tail := by
  rw [step_eq] at h
  obtain ⟨-, rfl⟩ := exec_next_iff.1 h
  exact ⟨effect_build .., effect_inputs ..⟩

/-- Settles O57: the build after a run is the one after its first cycle. -/
theorem buildIsNeverWritten : Obligations.BuildIsNeverWritten := by
  unfold Obligations.BuildIsNeverWritten
  intro k s t h
  induction k generalizing s with
  | zero =>
    cases h
    rfl
  | succ k ih =>
    cases hstep : step s with
    | next u =>
      rw [core_run_succ_of_next hstep] at h
      exact (ih u h).trans (step_build_inputs hstep).1
    | fault r => exact nomatch r
    | refused r =>
      rw [core_run_succ_of_refused hstep] at h
      cases h

/-- A cycle is the list of events of its word, the pin-level part put aside (R103). -/
theorem outcomeWithoutPins_step {s : State} (hb : buildValid s.build = true) :
    outcomeWithoutPins (step s) = runOps (expand (decode (fetchWord s))) (withoutPins s) := by
  rw [step_eq, outcomeWithoutPins_exec, ← exec_eq_runOps_expand _ (by exact hb)]
  rfl

/-- A run over all the listed pins is the run of their words' events, from the state without its pin-level part. -/
theorem outcomeWithoutPins_core_run {ps : List Pins} {s : State} (hb : buildValid s.build = true)
    (hin : s.inputs = ps) :
    outcomeWithoutPins (Host.Core.run core ps.length s) =
      runOps ((wordsOfPins s.build.edgeSel s.swPrev ps).flatMap fun w => expand (decode w)) (withoutPins s) := by
  induction ps generalizing s with
  | nil => rfl
  | cons p ps ih =>
    have hcycle := outcomeWithoutPins_step hb
    rw [fetchWord_of_inputs hin] at hcycle
    rw [List.length_cons, wordsOfPins, List.flatMap_cons]
    cases hstep : step s with
    | next t =>
      obtain ⟨hbuild, htail⟩ := step_build_inputs hstep
      have hswPrev : t.swPrev = swPrevAfter p := by rw [step_swPrev hstep, currentPins_of_inputs hin]
      rw [hstep] at hcycle
      rw [core_run_succ_of_next hstep, ih (by rwa [hbuild]) (by rw [htail, hin, List.tail_cons]), hbuild, hswPrev,
        runOps_append_of_next hcycle.symm]
    | fault r => exact nomatch r
    | refused r =>
      rw [hstep] at hcycle
      rw [core_run_succ_of_refused hstep, runOps_append_of_refused hcycle.symm]
      rfl

/-- Settles O48: both outcomes are the one from the state without its pin-level part. -/
theorem pinRunIsItsEventRun : Obligations.PinRunIsItsEventRun := by
  unfold Obligations.PinRunIsItsEventRun
  intro s hb
  rw [outcomeWithoutPins_core_run hb rfl, outcomeWithoutPins_runOps]

/-! ## A held tick strobe (R102) -/

/-- A cycle with `tick_stb` alone and the switch held is TICK on the state with the other pins still to come. -/
theorem step_of_tick_strobe {s : State} {d : RawWord} {ps : List Pins} (hb : buildValid s.build = true)
    (hin : s.inputs = ⟨false, true, s.swPrev, false, d⟩ :: ps) : step s = .next (setInputs (tickEvent s) ps) := by
  have hdecode : decode (fetchWord s) = .tick := by
    rw [fetchWord_of_inputs hin, wordOfPins, edgeDetect_self]
    simp [decode]
  rw [step_eq, hdecode, exec_tick_of_valid (by rwa [takePins_build]), takePins_of_inputs hin]
  exact congrArg _ (tickEvent_setInputs s ps)

theorem tickEvent_iterate_setInputs (n : Nat) (s : State) (ps : List Pins) :
    tickEvent^[n] (setInputs s ps) = setInputs (tickEvent^[n] s) ps :=
  (Function.Semiconj.iterate_right (f := fun s => setInputs s ps)
    (fun s => (tickEvent_setInputs s ps).symm) n s).symm

/-- `k` cycles with the strobe held are `k` TICK events, and use up the pins. -/
theorem core_run_of_tick_strobe {k : Nat} {s : State} {d : RawWord} (hb : buildValid s.build = true)
    (hin : s.inputs = List.replicate k ⟨false, true, s.swPrev, false, d⟩) :
    Host.Core.run core k s = .next (setInputs (tickEvent^[k] s) []) := by
  induction k generalizing s with
  | zero =>
    have hnone : s = setInputs s [] := by
      rw [← List.replicate_zero, ← hin]
      rfl
    exact (core_run_zero s).trans (congrArg _ hnone)
  | succ k ih =>
    rw [List.replicate_succ] at hin
    rw [core_run_succ_of_next (step_of_tick_strobe hb hin), ih (by simpa) (by simp), tickEvent_iterate_setInputs]
    rfl

/-- Settles O50: both runs are the TICK event iterated. -/
theorem heldTickStrobeIsOneTickPerCycle : Obligations.HeldTickStrobeIsOneTickPerCycle := by
  unfold Obligations.HeldTickStrobeIsOneTickPerCycle
  intro k s d hb hin
  have hpins := core_run_of_tick_strobe hb hin
  have hevents := runOps_replicate_tick k hb
  refine ⟨by rw [hpins, hevents]; rfl, _, hevents, hpins, ?_, ?_, tickEvent_iterate_power k s⟩
  · rw [tickEvent_iterate_tick]
    simp
  · obtain ⟨i, o, hrun⟩ := tickEvent_iterate_eq k s
    rw [hrun]

end Sys2Proof.Machine
end
